-- ==== Sys2Proof/Word.lean ====
section
/-! DEFINITION. The bit-vector types of the block (R7): bytes of memory, 16-bit sizes, 32-bit registers and command words. -/

namespace Sys2Proof

/-- One byte of memory, one channel of a pixel (R7: CHANNEL_BITS = 8). -/
abbrev Byte := BitVec 8

/-- An image size: WIDTH[15:0], HEIGHT[15:0] (R29, R30). -/
abbrev Half := BitVec 16

/-- A register of the window, a command word, a byte address (R7: REG_BITS = ADDR_BITS = 32). -/
abbrev Word := BitVec 32

/-- An offset in the 64-byte register window (R23, R75). -/
abbrev Offset := BitVec 6

end Sys2Proof
end

