-- ==== Sys2Proof/Syntax.lean ====
section
/-! DEFINITION. The commands of the opcode table (R71) and the host's transactions (R75 to R77). -/

namespace Sys2Proof

/-- The three commands of `spec/opcode_table.json` (R71). None carries an operand field (R72). -/
inductive Instr where
  /-- 5×5 binomial Gaussian blur, clamp-to-edge (R132). -/
  | gauss5
  /-- Histogram equalization (R145). -/
  | histeq
  /-- Sobel gradient-magnitude edge map (R162). -/
  | sobel
deriving DecidableEq, Repr

/-- What the host does, one event each: the transactions of R75 and R76, the waiting pseudo-operations of R77, and the
host's own accesses to memory (R20, R60, R61). `size` is the access's width in bytes; only 4 is inside the contract
(R53 (b)). `ACK` and `RUN` are expansions into these (R77): `Machine.ackOp`, `Machine.runOps`. -/
inductive HostOp where
  /-- `RD off` (R100). -/
  | regRead (off : Offset) (size : Nat)
  /-- `WR off, data` (R101 to R105). -/
  | regWrite (off : Offset) (size : Nat) (data : Word)
  /-- `POLL reg, mask, val`: one `RD` of it, repeated until `(t AND mask) = val` (R77). -/
  | poll (off : Offset) (mask val : Word)
  /-- `WAITIRQ` (R77). -/
  | waitIrq
  /-- The host reads one byte of memory (R60, R61). -/
  | memRead (addr : Word)
  /-- The host writes one byte of memory (R60, R61). -/
  | memWrite (addr : Word) (data : Byte)
deriving DecidableEq, Repr

end Sys2Proof
end

