-- ==== Sys2Proof/WellFormed.lean ====
section
/-! DEFINITION. Well-formedness: which command words are legal (R70, R73), which register accesses are inside the block's
contract (R53). A command has no operand field (R72), so every term of `Instr` is well formed. -/

namespace Sys2Proof

/-- Every command is well formed: it carries no register number and no immediate (R72). -/
def Instr.wellFormed : Instr → Bool
  | .gauss5 => true
  | .histeq => true
  | .sobel => true

/-- The OP field of a command word (R70). -/
def opField (w : Word) : BitVec 4 := w.extractLsb' 0 4

/-- The RSVD field of a command word (R70). -/
def rsvdField (w : Word) : BitVec 28 := w.extractLsb' 4 28

/-- A legal command word: RSVD = 0 and OP one of 0x1, 0x2, 0x3 (R70, R73). -/
def wellFormedWord (w : Word) : Bool :=
  rsvdField w == 0#28 && (opField w == 1#4 || opField w == 2#4 || opField w == 3#4)

/-- A register access inside the contract: 32 bits wide, at an offset that is a multiple of 4 (R53 (b)). -/
def wellFormedAccess (off : Offset) (size : Nat) : Bool :=
  size == 4 && off.extractLsb' 0 2 == 0#2

/-- A host transaction inside the contract of R53 (b). Memory accesses are bytes and need no alignment. -/
def HostOp.wellFormed : HostOp → Bool
  | .regRead off size => wellFormedAccess off size
  | .regWrite off size _ => wellFormedAccess off size
  | .poll off _ _ => wellFormedAccess off 4
  | .waitIrq => true
  | .memRead _ => true
  | .memWrite _ _ => true

end Sys2Proof
end

