-- ==== Sys2Proof/Decode.lean ====
section
/-! DEFINITION. The decoder of command words (R70, R71, R73, R74), total on every 32-bit word, and the encoder. -/

namespace Sys2Proof

/-- The decoder selects on the whole word, mask 0xFFFF_FFFF (R71). Every other word is illegal (R73): the block reports
it by error code 1, BAD_OPCODE, at issue (R201), which is why the answer is `none` and no refusal of the model. -/
def decode (w : Word) : Option Instr :=
  if w = 0x00000001#32 then some .gauss5
  else if w = 0x00000002#32 then some .histeq
  else if w = 0x00000003#32 then some .sobel
  else none

/-- The command word of a command: OP in bits 3:0, RSVD = 0 (R70, R71). -/
def encode : Instr → Word
  | .gauss5 => 0#28 ++ 0x1#4
  | .histeq => 0#28 ++ 0x2#4
  | .sobel => 0#28 ++ 0x3#4

/-- The command read from an instruction whose bits are `w`, of which the table gives `nbits`; the bits above are 0. A
command is one word of 32 bits (R74), so nothing longer is a command. The word reaches the decoder whole, as the data
of one CMD write (R64). -/
def decodeTableWord (nbits w : Nat) : Option Instr :=
  if nbits ≤ 32 then decode (BitVec.ofNat 32 (w % 2 ^ nbits)) else none

end Sys2Proof
end

