-- ==== Sys2Proof/Config.lean ====
section
/-! DEFINITION. What an implementation or its platform fixes (the OPEN parameters of R7), and the free values of R61, R202
and R231. Everything open is an opaque constant with no body: no proof can see what it is. -/

namespace Sys2Proof.Machine

/-- How memory answers an engine access that it does not admit: MEM_FAULT_RESPONSE (R7, R202). -/
inductive MemFaultResponse where
  /-- With an error response. -/
  | error
  /-- With nothing. -/
  | hang
deriving DecidableEq, Repr, Inhabited

/-- Why a window of the platform's address map is not ordinary memory the engine may use. -/
inductive WindowKind where
  /-- Memory admits no access of the engine there (R202). For the host it is memory like any other (R43 (b), R61):
  `notes/assumptions/20.md`. -/
  | absent
  /-- Something answers, but it is a device's registers or otherwise no ordinary memory (R241 (a), (b)). -/
  | notOrdinary
deriving DecidableEq, Repr, Inhabited

/-- One window `[base, base + size)` of the platform's address map that is not ordinary memory; of size 0 it covers no
address. DESIGN CHOICE, safe: `notes/assumptions/10.md`. -/
structure Window where
  base : Nat
  size : Nat
  kind : WindowKind
deriving DecidableEq, Repr, Inhabited

/-- The OPEN parameters (R7) and the platform's address map. Every address in no window is ordinary memory the engine may
read and write. DESIGN CHOICE, safe: `notes/assumptions/3.md`, `notes/assumptions/10.md`. -/
structure Params where
  /-- MAX_WIDTH, in 1..65535 (R7, R31). -/
  maxWidth : Half
  /-- MAX_HEIGHT, in 1..65535 (R7, R31). -/
  maxHeight : Half
  /-- REG_BASE (R23). -/
  regBase : Nat
  /-- IRQ_LINE (R210). -/
  irqLine : Nat
  /-- MEM_FAULT_RESPONSE (R202). -/
  memFault : MemFaultResponse
  /-- Where the platform has no ordinary memory (R202, R241). -/
  windows : List Window
deriving DecidableEq, Repr

/-- MAX_WIDTH less one: R7 gives MAX_WIDTH the range 1..65535. -/
opaque Config.maxWidthLessOne : Fin 65535

/-- MAX_HEIGHT less one: R7 gives MAX_HEIGHT the range 1..65535. -/
opaque Config.maxHeightLessOne : Fin 65535

/-- REG_BASE (R7). -/
opaque Config.regBase : Nat

/-- IRQ_LINE (R7). -/
opaque Config.irqLine : Nat

/-- MEM_FAULT_RESPONSE (R7). -/
opaque Config.memFault : MemFaultResponse

/-- The platform's address map. -/
opaque Config.windows : List Window

/-- The parameters of the machine that `State.reset` describes. -/
def Config.params : Params where
  maxWidth := BitVec.ofNat 16 (Config.maxWidthLessOne.val + 1)
  maxHeight := BitVec.ofNat 16 (Config.maxHeightLessOne.val + 1)
  regBase := Config.regBase
  irqLine := Config.irqLine
  memFault := Config.memFault
  windows := Config.windows

/-- The n-th byte of "any value" that the machine draws (R61, R202, R231): a free value, nothing constrains it.
`notes/assumptions/6.md`. -/
opaque Config.freeByte : Nat → Byte

end Sys2Proof.Machine
end

