-- ==== Sys2Proof/Machine/State.lean ====
section
/-! DEFINITION. The state of the block, its engine, its memory and its surroundings, as plain data; its value after reset;
the reasons a step stops. -/

namespace Sys2Proof.Machine

/-- Memory space (R43 (b)): addresses strictly rising, no entry equal to what an unlisted address reads as. -/
abbrev Memory := List Host.Cell

/-- One RGBA8 pixel (R50). -/
structure Pixel where
  r : Byte
  g : Byte
  b : Byte
  a : Byte
deriving DecidableEq, Repr

/-- The three bytes of a pixel that a command writes (R54 (b), R57). -/
structure Rgb where
  r : Byte
  g : Byte
  b : Byte
deriving DecidableEq, Repr

/-- The colour channels c = 0, 1, 2 of R11; alpha is no operand of any command (R122). -/
inductive Colour where
  | red
  | green
  | blue
deriving DecidableEq, Repr

/-- The shadow of the running command, taken at accept (R38). -/
structure Shadow where
  /-- sh_op -/
  op : BitVec 2
  /-- sh_base -/
  base : Word
  /-- sh_w -/
  width : Half
  /-- sh_h -/
  height : Half
deriving DecidableEq, Repr

/-- The engine's internal tables (R40). A table that the running command does not build is the empty list, or 0. -/
structure Tables where
  /-- hist[0..255], COUNT_BITS = 32 bits each (R140). -/
  hist : List Word
  /-- cdf[0..255], 32 bits each (R141). -/
  cdf : List Word
  /-- cdfMin, 32 bits (R142). -/
  cdfMin : Word
  /-- lut[0..255], 8 bits each (R143, R144). -/
  lut : List Byte
  /-- gray[0..N−1], 8 bits each (R161). -/
  gray : List Byte
deriving DecidableEq, Repr

/-- What the engine holds while BUSY (R38, R39, R40), and the model's own mark of a race. -/
structure Running where
  shadow : Shadow
  /-- S: the region's pixels at accept (R39, R55). -/
  snapshot : List Pixel
  tables : Tables
  /-- The MODEL's own: the host has written a byte of the region since accept (R61 (b)). -/
  hostWrote : Bool
  /-- An access of the command is in flight that memory never answers (R202): no completion comes any more. -/
  unanswered : Bool
deriving DecidableEq, Repr

/-- The engine state `eng` (R37). The shadow, S and the tables exist only while BUSY: in IDLE they are unspecified and
never read, and "a model need not represent them between commands" (I7). -/
inductive Engine where
  | idle
  | busy (run : Running)
deriving DecidableEq, Repr

/-- How the memory system answers the engine's accesses in an engine turn (R107, R202). -/
inductive BusAnswer where
  /-- No access that memory admits gets an error response. -/
  | served
  /-- Some access gets an error response, and every access in flight with it is answered. -/
  | error
  /-- Some access is never answered. -/
  | never
deriving DecidableEq, Repr

/-- Whose event a step is (R4, R20, R207). -/
inductive Turn where
  /-- The host's next transaction. -/
  | host
  /-- The engine's next step (R107), with memory's answer to its accesses. -/
  | engine (answer : BusAnswer)
  /-- `rst_n` is pulled low and released (R230, R231). -/
  | resetPin
deriving DecidableEq, Repr

/-- The machine: the block, the memory it shares with the host, the host's transactions to come, and who moves when. -/
structure State where
  /-- CTRL.IE (R25) -/
  ie : Bool
  /-- STATUS.DONE (R34) -/
  done : Bool
  /-- STATUS.ERR (R35) -/
  err : Bool
  /-- STATUS.OVR (R36) -/
  ovr : Bool
  /-- STATUS.ERRCODE (R35, R200) -/
  errcode : BitVec 4
  /-- BASE (R28) -/
  base : Word
  /-- WIDTH[15:0] (R29) -/
  width : Half
  /-- HEIGHT[15:0] (R30) -/
  height : Half
  /-- eng, and what it holds while BUSY (R37 to R40). STATUS.BUSY is computed from it (R33). -/
  engine : Engine
  /-- Memory space (R43 (b)) -/
  mem : Memory
  /-- The MODEL's own: the host's transactions still to come, the next one first. -/
  hostOps : List HostOp
  /-- The MODEL's own: who moves in this step. -/
  turn : Turn
  /-- The MODEL's own: who moves in the steps after this one; then host and engine take turns. -/
  later : List Turn
  /-- The MODEL's own: the value the last host register read returned. -/
  regReadData : Word
  /-- The MODEL's own: the value the last host memory read returned. -/
  memReadData : Byte
  /-- The MODEL's own: how many free bytes have been drawn. -/
  freeDraws : Nat
  /-- The OPEN parameters (R7): no step changes them. -/
  params : Params
deriving DecidableEq, Repr

/-- Why the machine stops with a fault. -/
inductive Fault where
  /-- The engine would access an address at or above 2^32, which does not exist (R43 (b)). Raised by an engine turn whose
  shadow's region passes the top of memory space; issue never accepts one (R201, code 5), so no run reaches it. Safe. -/
  | outsideMemorySpace
deriving DecidableEq, Repr

/-- Why the machine refuses. -/
inductive Refusal where
  /-- Raised by an arm of `exec` that has no meaning yet; none is left. Safe. -/
  | notModelled (mnemonic : String)
  /-- Raised by a host register access that is not an aligned 32-bit one: "A model refuses it" (R53 (b), I6). Safe. -/
  | registerAccessNotWord
  /-- Raised by the CMD write of a command that passed its checks, when its region is not ordinary memory or overlaps
  device registers: "A model refuses such a launch" (R241 (a), (b), I8). Safe. -/
  | launchOutsideContract
  /-- Raised by a host memory access to an address that is not memory but a device's register: the spec does not say what
  the device does. A running command's region holds no such address. Safe. -/
  | hostAccessNotMemory
deriving DecidableEq, Repr

/-- The outcome of an event. -/
abbrev Outcome := Host.Outcome State Fault Refusal

/-- The machine right after reset (R44, R230): every register at its reset value, the engine IDLE, no byte of memory
listed, no host transaction to come. The values of the model's own fields: `notes/assumptions/1.md`, `2.md`, `5.md`,
`6.md`, `15.md` (DESIGN CHOICE); the parameters: `3.md`. -/
def State.reset : State where
  ie := false
  done := false
  err := false
  ovr := false
  errcode := 0#4
  base := 0#32
  width := 0#16
  height := 0#16
  engine := .idle
  mem := []
  hostOps := []
  turn := .host
  later := []
  regReadData := 0#32
  memReadData := 0#8
  freeDraws := 0
  params := Config.params

end Sys2Proof.Machine
end

