-- ==== Sys2Proof/Machine/Arith.lean ====
section
/-! DEFINITION. The integer operators of R9, and the kernels' sums. All arithmetic is on unbounded integers. -/

namespace Sys2Proof.Machine

/-- `clamp(v, lo, hi) = min(max(v, lo), hi)` (R9). -/
def clamp (v lo hi : Int) : Int := min (max v lo) hi

/-- The bits of `isqrt n` below bit `k`, from the highest down, added to the root `m` found so far. -/
def isqrtBits : Nat → Nat → Nat → Nat
  | 0, m, _ => m
  | k + 1, m, n => if (m + 2 ^ k) * (m + 2 ^ k) ≤ n then isqrtBits k (m + 2 ^ k) n else isqrtBits k m n

/-- `isqrt(n)`: the greatest m with m·m ≤ n (R9), found bit by bit. -/
def isqrt (n : Nat) : Nat := isqrtBits (n.log2 / 2 + 1) 0 n

/-- `(2·a + b) div (2·b)`: the quotient a/b rounded to the nearest integer, a tie going up (R121, R143). For b = 0 the
value is not used: R143 divides only when D > 0. -/
def divNearest (a b : Nat) : Nat := (2 * a + b) / (2 * b)

/-- `Σ_{j<n} Σ_{i<n} f(j, i)` over the naturals: a kernel's footprint, row j, column i. -/
def footprintSum (n : Nat) (f : Nat → Nat → Nat) : Nat :=
  ((List.range n).map fun j => ((List.range n).map fun i => f j i).sum).sum

/-- The same sum over signed integers (R162). -/
def footprintSumInt (n : Nat) (f : Nat → Nat → Int) : Int :=
  ((List.range n).map fun j => ((List.range n).map fun i => f j i).sum).sum

end Sys2Proof.Machine
end

