-- ==== Sys2Proof/Machine/Operands.lean ====
section
/-! DEFINITION. A command's operands (R72, R38), its region and the pixels of its snapshot (R11, R50, R55), clamp-to-edge
sampling (R120) and luma (R121). -/

namespace Sys2Proof.Machine

/-- N = W·H (R11). -/
def Shadow.pixelCount (sh : Shadow) : Nat := sh.width.toNat * sh.height.toNat

/-- The region's first byte address, B (R11, R72): zero-extended, unchanged onto the master port (R59). -/
def Shadow.start (sh : Shadow) : Nat := sh.base.toNat

/-- The first address past the region, B + 4·N (R50). -/
def Shadow.stop (sh : Shadow) : Nat := sh.start + 4 * sh.pixelCount

/-- Is address `a` in the region `[B, B + 4·N)`? (R50) -/
def Shadow.covers (sh : Shadow) (a : Nat) : Bool := decide (sh.start ≤ a) && decide (a < sh.stop)

/-- Is `a`, an address of the region, an alpha byte of it? Pixels are 4 bytes, alpha the fourth (R50). -/
def Shadow.isAlpha (sh : Shadow) (a : Nat) : Bool := (a - sh.start) % 4 == 3

/-- Is `a` an R, G or B byte of the region? These are the bytes a command writes (R57). -/
def Shadow.isColour (sh : Shadow) (a : Nat) : Bool := sh.covers a && !sh.isAlpha a

/-- The channel's byte offset within its pixel (R50). -/
def Colour.offset : Colour → Nat
  | .red => 0
  | .green => 1
  | .blue => 2

/-- `addr(x, y, c) = B + 4·(y·W + x) + c` for a colour channel c (R50). -/
def Shadow.addr (sh : Shadow) (x y : Nat) (c : Colour) : Nat :=
  sh.start + 4 * (y * sh.width.toNat + x) + c.offset

/-- `addr(x, y, 3)`, the address of a pixel's alpha byte (R50). -/
def Shadow.alphaAddr (sh : Shadow) (x y : Nat) : Nat := sh.start + 4 * (y * sh.width.toNat + x) + 3

/-- The pixel whose channels are all 0; the value of a read outside the image, which no rule makes. -/
def Pixel.zero : Pixel := ⟨0#8, 0#8, 0#8, 0#8⟩

/-- One colour channel of a pixel, as an unsigned number (R50). -/
def Pixel.channel (p : Pixel) : Colour → Nat
  | .red => p.r.toNat
  | .green => p.g.toNat
  | .blue => p.b.toNat

/-- One channel of a written pixel. -/
def Rgb.channel (p : Rgb) : Colour → Byte
  | .red => p.r
  | .green => p.g
  | .blue => p.b

/-- An image: W, H and its pixels, row 0 first (R11). -/
structure Image where
  width : Nat
  height : Nat
  pixels : List Pixel
deriving DecidableEq, Repr

/-- The image that the running command reads: its snapshot under its shadow's W and H (R11, R12). -/
def Running.image (r : Running) : Image := ⟨r.shadow.width.toNat, r.shadow.height.toNat, r.snapshot⟩

/-- N = W·H of an image (R11). -/
def Image.pixelCount (img : Image) : Nat := img.width * img.height

/-- The pixel (x, y) of the snapshot (R11, R50). -/
def Image.pixelAt (img : Image) (x y : Nat) : Pixel := img.pixels.getD (y * img.width + x) Pixel.zero

/-- `cx(u) = clamp(u, 0, W − 1)` and `cy(v) = clamp(v, 0, H − 1)` for a size W or H (R120). -/
def clampCoord (u : Int) (size : Nat) : Nat := (clamp u 0 ((size : Int) - 1)).toNat

/-- `sample(S, u, v, c) = S(cx(u), cy(v), c)` (R120). -/
def Image.sample (img : Image) (u v : Int) (c : Colour) : Nat :=
  (img.pixelAt (clampCoord u img.width) (clampCoord v img.height)).channel c

/-- `luma(r, g, b) = min(255, (299·r + 587·g + 114·b + 500) div 1000)` (R121). -/
def luma (r g b : Nat) : Nat := min 255 ((299 * r + 587 * g + 114 * b + 500) / 1000)

/-- The luma of a pixel; alpha is no operand (R121, R122). -/
def Pixel.luma (p : Pixel) : Nat := Sys2Proof.Machine.luma (p.channel .red) (p.channel .green) (p.channel .blue)

/-- The luma of every pixel, in the order of the rows (R140, R161). -/
def Image.lumas (img : Image) : List Nat := img.pixels.map Pixel.luma

/-- The pixel whose three colour channels are all `v` (R145, R162). -/
def Rgb.gray (v : Byte) : Rgb := ⟨v, v, v⟩

/-- Is (x, y) a border pixel? (R162; R11's x < W and y < H hold where it is asked.) -/
def Image.isBorder (img : Image) (x y : Nat) : Bool :=
  x == 0 || x == img.width - 1 || y == 0 || y == img.height - 1

end Sys2Proof.Machine
end

