-- ==== Sys2Proof/Machine/Flags.lean ====
section
/-! DEFINITION. The flags of STATUS and CTRL, the words the host reads (R24 to R31), the error codes (R200), the interrupt
(R210), and every write of a flag that a rule makes. -/

namespace Sys2Proof.Machine

/-- The error causes (R200). Codes 7 to 15 are reserved and never produced; code 0 is "no error". -/
inductive ErrorCode where
  | badOpcode
  | zeroDim
  | dimRange
  | misaligned
  | region
  | bus
deriving DecidableEq, Repr

/-- The code reported in STATUS.ERRCODE (R200). -/
def ErrorCode.code : ErrorCode → BitVec 4
  | .badOpcode => 1#4
  | .zeroDim => 2#4
  | .dimRange => 3#4
  | .misaligned => 4#4
  | .region => 5#4
  | .bus => 6#4

/-- STATUS.BUSY: it "always equals engine state is BUSY" (R33). -/
def State.busy (s : State) : Bool :=
  match s.engine with
  | .idle => false
  | .busy _ => true

/-- `irq = reg[IE] AND reg[DONE]` (R42, R210). -/
def State.irq (s : State) : Bool := s.ie && s.done

/-- The platform's interrupt inputs: `irq` is wired to input IRQ_LINE (R210); the block drives no other. -/
def State.interruptInput (s : State) (line : Nat) : Bool := line == s.params.irqLine && s.irq

/-- ID: "KI", major 0, minor 7 (R24). -/
def idWord : Word := 0x4B490007#32

/-- CTRL as read: IE in bit 0, SRST reads 0, the rest 0 (R25, R100). -/
def State.ctrlWord (s : State) : Word := 0#31 ++ BitVec.ofBool s.ie

/-- STATUS as read (R26, R100). -/
def State.statusWord (s : State) : Word :=
  0#20 ++ s.errcode ++ 0#4 ++ BitVec.ofBool s.ovr ++ BitVec.ofBool s.err ++ BitVec.ofBool s.done ++ BitVec.ofBool s.busy

/-- CAPS: MAX_HEIGHT in bits 31:16, MAX_WIDTH in bits 15:0 (R31). -/
def Params.capsWord (p : Params) : Word := p.maxHeight ++ p.maxWidth

/-- Accept clears DONE, ERR and ERRCODE, and leaves OVR (R34, R35, R36, R106). -/
def State.clearReport (s : State) : State := { s with done := false, err := false, errcode := 0#4 }

/-- A CMD write while BUSY sets OVR and nothing else (R36, R105). -/
def State.setOverrun (s : State) : State := { s with ovr := true }

/-- TAKING AN EXCEPTION: `complete_with_error(code)` (R203). The engine becomes IDLE, DONE and ERR are set, ERRCODE holds
the cause. Nothing else is saved and control goes nowhere: the block has no vector, mode or mask. -/
def State.completeWithError (s : State) (e : ErrorCode) : State :=
  { s with engine := .idle, done := true, err := true, errcode := e.code }

/-- The flags of a successful completion: IDLE and DONE; ERR and ERRCODE stay as accept left them (R108). -/
def State.completeOk (s : State) : State := { s with engine := .idle, done := true }

/-- RETURN FROM AN EXCEPTION OR COMPLETION: `WR STATUS, d`, write-1-to-clear (R102, R204). Bit 1 clears DONE, bit 2 ERR
and ERRCODE, bit 3 OVR; BUSY and the other bits are never written by the host. -/
def State.writeStatus (s : State) (d : Word) : State :=
  { s with
    done := s.done && !d.getLsbD 1
    err := s.err && !d.getLsbD 2
    errcode := if d.getLsbD 2 then 0#4 else s.errcode
    ovr := s.ovr && !d.getLsbD 3 }

/-- The flags, the registers and the engine take their reset values (R44, R230). Memory is not reset by the block (R231),
and what belongs to the host, the platform and the schedule stays. -/
def State.resetRegisters (s : State) : State :=
  { s with ie := false, done := false, err := false, ovr := false, errcode := 0#4, base := 0#32, width := 0#16,
           height := 0#16, engine := .idle }

end Sys2Proof.Machine
end

