-- ==== Sys2Proof/Machine/Ops.lean ====
section
/-! DEFINITION. The named operations: memory, the engine's two access shapes, free values, the platform's answer, reset,
command issue, accept and completion, and one command's event. -/

namespace Sys2Proof.Machine

/-! ### Memory -/

/-- What an address that memory does not list reads as. DESIGN CHOICE, unsafe: `notes/assumptions/5.md` (the spec gives
memory no reset contents: R44, R231). -/
def unlistedByte : Byte := 0#8

/-- One byte of memory (R43 (b)). -/
def Memory.read : Memory → Nat → Byte
  | [], _ => unlistedByte
  | (k, v) :: m, a => if a = k then v else Memory.read m a

/-- An entry in front, unless it says what an unlisted address reads as anyway. -/
def Memory.consCell (a : Nat) (v : Byte) (m : Memory) : Memory := if v = unlistedByte then m else (a, v) :: m

/-- `MemWrite(addr, 1, v)` (R10), keeping the canonical form. -/
def Memory.write : Memory → Nat → Byte → Memory
  | [], a, v => Memory.consCell a v []
  | (k, u) :: m, a, v =>
    if a < k then Memory.consCell a v ((k, u) :: m)
    else if a = k then Memory.consCell a v m
    else (k, u) :: Memory.write m a v

/-- The canonical form: addresses strictly rising, no entry equal to what an unlisted address reads as. -/
def Memory.wf : Memory → Bool
  | [] => true
  | (k, v) :: m => v != unlistedByte && m.all (fun c => decide (k < c.1)) && Memory.wf m

/-- Every listed address is one of the 2^32 of memory space (R43 (b)). -/
def Memory.inSpace (m : Memory) : Bool := m.all fun c => decide (c.1 < 2 ^ 32)

/-- `MemRead(addr, 4)`: little-endian, the byte at addr in bits 7:0 (R10, R51, R54 (a)). -/
def Memory.read32 (m : Memory) (a : Nat) : Word := m.read (a + 3) ++ m.read (a + 2) ++ m.read (a + 1) ++ m.read a

/-- One byte lane of a 32-bit write: written only where its enable is set. -/
def Memory.writeLane (m : Memory) (a lane : Nat) (enables : BitVec 4) (w : Word) : Memory :=
  if enables.getLsbD lane then m.write (a + lane) (w.extractLsb' (8 * lane) 8) else m

/-- A 32-bit write with byte enables, little-endian lanes (R51, R54 (b)). -/
def Memory.write32 (m : Memory) (a : Nat) (enables : BitVec 4) (w : Word) : Memory :=
  (((m.writeLane a 0 enables w).writeLane a 1 enables w).writeLane a 2 enables w).writeLane a 3 enables w

/-- A pixel from its 32-bit word: R in bits 7:0, G, B, then A in bits 31:24 (R51). -/
def Pixel.ofWord (w : Word) : Pixel :=
  ⟨w.extractLsb' 0 8, w.extractLsb' 8 8, w.extractLsb' 16 8, w.extractLsb' 24 8⟩

/-- The engine's pixel read (R54 (a)). -/
def Memory.readPixel (m : Memory) (a : Nat) : Pixel := Pixel.ofWord (m.read32 a)

/-- The engine's pixel write: byte enables 0b0111, so alpha is not written (R54 (b), R57). -/
def Memory.writePixel (m : Memory) (a : Nat) (p : Rgb) : Memory := m.write32 a 0b0111#4 (0#8 ++ p.b ++ p.g ++ p.r)

/-- `n` pixels from address `a` on, in memory order (R50, R55). -/
def Memory.readPixels (m : Memory) (a : Nat) : Nat → List Pixel
  | 0 => []
  | n + 1 => m.readPixel a :: Memory.readPixels m (a + 4) n

/-- The pixels written from address `a` on, in memory order (R108). -/
def Memory.writePixels (m : Memory) (a : Nat) : List Rgb → Memory
  | [] => m
  | p :: ps => Memory.writePixels (m.writePixel a p) (a + 4) ps

/-! ### Free values -/

/-- `n` pixels of free bytes, the first byte being draw number `k`. -/
def freePixels (k : Nat) : Nat → List Rgb
  | 0 => []
  | n + 1 => ⟨Config.freeByte k, Config.freeByte (k + 1), Config.freeByte (k + 2)⟩ :: freePixels (k + 3) n

/-- Every R, G and B byte of the region becomes any value; alpha and every byte outside are unchanged (R61 (b), R202,
R231). -/
def State.loseRegion (s : State) (sh : Shadow) : State :=
  { s with
    mem := s.mem.writePixels sh.start (freePixels s.freeDraws sh.pixelCount)
    freeDraws := s.freeDraws + 3 * sh.pixelCount }

/-! ### The platform -/

/-- Does the window share an address with `[lo, hi)` (R241)? A window of size 0 covers no address, so it meets nothing,
also where its base lies inside `[lo, hi)`. DESIGN CHOICE, safe: `notes/assumptions/10.md`. -/
def Window.meets (w : Window) (lo hi : Nat) : Bool := decide (max lo w.base < min hi (w.base + w.size))

/-- The block's own register window: 64 bytes at REG_BASE (R23). -/
def Params.registerWindow (p : Params) : Window := ⟨p.regBase, 64, .notOrdinary⟩

/-- `[lo, hi)` touches no device's registers and nothing else that is not ordinary memory, the block's own window among
them (R241 (a), (b)). -/
def Params.launchAllowed (p : Params) (lo hi : Nat) : Bool :=
  !((p.registerWindow :: p.windows).any fun w => w.kind == .notOrdinary && w.meets lo hi)

/-- Is the address a byte of memory, which the host shares with the engine (R43 (b)), and no device's register? -/
def Params.isMemory (p : Params) (a : Nat) : Bool := p.launchAllowed a (a + 1)

/-- Memory admits every engine access in `[lo, hi)` (R202). -/
def Params.admits (p : Params) (lo hi : Nat) : Bool := !(p.windows.any fun w => w.kind == .absent && w.meets lo hi)

/-- Memory admits the engine's access of some pixel of the region (R54, R202). -/
def Params.admitsSome (p : Params) (sh : Shadow) : Bool :=
  (List.range sh.pixelCount).any fun k => p.admits (sh.start + 4 * k) (sh.start + 4 * k + 4)

/-- How an access that memory does not admit is answered (R202). -/
def MemFaultResponse.answer : MemFaultResponse → BusAnswer
  | .error => .error
  | .hang => .never

/-- How the accesses of a command are answered in a turn whose accesses of admitted memory are answered as `a` (R202).
Where memory admits the whole region that is all; where it admits none of it, MEM_FAULT_RESPONSE decides; where it admits a
part, MEM_FAULT_RESPONSE decides unless an access of that part already ended the command or hangs it. -/
def Params.answer (p : Params) (sh : Shadow) (a : BusAnswer) : BusAnswer :=
  if p.admits sh.start sh.stop then a
  else if a = .served ∨ p.admitsSome sh = false then p.memFault.answer
  else a

/-! ### Reset -/

/-- Hardware reset (R230, R231) and, within a CTRL write, soft reset (R232): a running command ends with no completion and
its region's R, G and B bytes are any value; the registers take their reset values. -/
def State.resetBlock (s : State) : State :=
  match s.engine with
  | .idle => s.resetRegisters
  | .busy r => (s.loseRegion r.shadow).resetRegisters

/-! ### Issue, accept and completion -/

/-- `issue_check` (R201): the first failing check, in this order. `none` is the rule's 0. -/
def issueCheck (p : Params) (w base : Word) (width height : Half) : Option ErrorCode :=
  if ¬ (w = 0x00000001#32 ∨ w = 0x00000002#32 ∨ w = 0x00000003#32) then some .badOpcode
  else if width.toNat = 0 ∨ height.toNat = 0 then some .zeroDim
  else if p.maxWidth.toNat < width.toNat ∨ p.maxHeight.toNat < height.toNat then some .dimRange
  else if base.extractLsb' 0 2 ≠ 0#2 then some .misaligned
  else if 2 ^ 32 < base.toNat + 4 * width.toNat * height.toNat then some .region
  else none

/-- The shadow that accept takes of a command word and the registers (R38, R72, R106). -/
def State.shadowOf (s : State) (w : Word) : Shadow := ⟨w.extractLsb' 0 2, s.base, s.width, s.height⟩

/-- The snapshot that accept takes of a shadow's region (R55, R106). -/
def State.snapshotOf (s : State) (sh : Shadow) : List Pixel := s.mem.readPixels sh.start sh.pixelCount

/-- The tables of a command that builds none. -/
def Tables.empty : Tables := ⟨[], [], 0#32, [], []⟩

/-- What the engine holds after the accept of the word `w`. The tables are functions of S alone (R12, R140 to R144, R161),
so the model builds them with S: `notes/assumptions/8.md`. -/
def State.launched (s : State) (w : Word) (build : Image → Tables) : Running :=
  let sh := s.shadowOf w
  let snap := s.snapshotOf sh
  ⟨sh, snap, build ⟨sh.width.toNat, sh.height.toNat, snap⟩, false, false⟩

/-- `accept(w)` (R106). -/
def State.accept (s : State) (w : Word) (build : Image → Tables) : State :=
  { s.clearReport with engine := .busy (s.launched w build) }

/-- Command issue, `WR CMD, w` (R105): while BUSY the word is dropped and sets OVR; while IDLE the checks of R201, then the
error completion or accept. A launch that breaks R241 (a) or (b) is refused. -/
def issue (w : Word) (build : Image → Tables) (s : State) : Outcome :=
  match s.engine with
  | .busy _ => .next s.setOverrun
  | .idle =>
    match issueCheck s.params w s.base s.width s.height with
    | some e => .next (s.completeWithError e)
    | none =>
      if s.params.launchAllowed (s.shadowOf w).start (s.shadowOf w).stop then .next (s.accept w build)
      else .refused .launchOutsideContract

/-- The colour bytes of all N outputs, row by row (R108): pixel number k is (k mod W, k div W) (R50). -/
def outputPixels (img : Image) (out : Nat → Nat → Rgb) : List Rgb :=
  (List.range img.pixelCount).map fun k => out (k % img.width) (k / img.width)

/-- Successful completion (R108): every output is written, then DONE is set. If the host wrote a byte of the region since
accept, its R, G and B bytes are any value (R61 (b)). -/
def State.complete (s : State) (r : Running) (out : Nat → Nat → Rgb) : State :=
  if r.hostWrote then (s.loseRegion r.shadow).completeOk
  else { s with mem := s.mem.writePixels r.shadow.start (outputPixels r.image out) }.completeOk

/-- The completion of a bus error (R202): the region's R, G and B bytes are any value, code 6. -/
def State.busError (s : State) (r : Running) : State := (s.loseRegion r.shadow).completeWithError .bus

/-- An access of the running command is never answered: the engine stays BUSY (R202). -/
def State.stall (s : State) (r : Running) : State := { s with engine := .busy { r with unanswered := true } }

/-- The engine's step while it runs the command of `r` (R107, R202). A completion, with or without error, waits for every
access in flight, so once one is never answered no later answer ends the command: "Only a reset ends it". -/
def engineStep (r : Running) (answer : BusAnswer) (out : Nat → Nat → Rgb) (s : State) : Outcome :=
  if 2 ^ 32 < r.shadow.stop then .fault .outsideMemorySpace
  else if r.unanswered then .next s
  else
    match s.params.answer r.shadow answer with
    | .served => .next (s.complete r out)
    | .error => .next (s.busError r)
    | .never => .next (s.stall r)

/-- The sh_op of a command (R71, R106). -/
def opOf (i : Instr) : BitVec 2 := (encode i).extractLsb' 0 2

/-- One event of command `i`, by whose turn it is. On a host turn it is the CMD write of its word (R105). On an engine turn
it is the engine's step of it (R107), if it is the command that runs; otherwise the engine has no step of it to take. A
reset is no event of a command (R207). `build` gives the tables the command builds from its snapshot, `out` the colour
bytes its rule gives for pixel (x, y). -/
def commandEvent (i : Instr) (build : Image → Tables) (out : Image → Tables → Nat → Nat → Rgb) (s : State) : Outcome :=
  match s.turn with
  | .host => issue (encode i) build s
  | .engine answer =>
    match s.engine with
    | .idle => .next s
    | .busy r => if r.shadow.op = opOf i then engineStep r answer (out r.image r.tables) s else .next s
  | .resetPin => .next s

end Sys2Proof.Machine
end

