-- ==== Sys2Proof/Machine/Convolution.lean ====
section
/-! DEFINITION. GAUSS5, the convolution engine (42_convolution.md). -/

namespace Sys2Proof.Machine

/-- b = [1, 4, 6, 4, 1] (R130). -/
def binomialRow : List Nat := [1, 4, 6, 4, 1]

/-- `K[ky][kx] = b[ky] · b[kx]` (R130). -/
def gaussWeight (ky kx : Nat) : Nat := binomialRow.getD ky 0 * binomialRow.getD kx 0

/-- GAUSS_SUM (R131). -/
def gaussDivisor : Nat := 256

/-- The accumulated sum of R132 for one channel of the output pixel (x, y). -/
def gaussAcc (img : Image) (x y : Nat) (c : Colour) : Nat :=
  footprintSum 5 fun ky kx =>
    gaussWeight ky kx * img.sample ((x : Int) + (kx : Int) - 2) ((y : Int) + (ky : Int) - 2) c

/-- `acc >> 8`: the truncating division by GAUSS_SUM (R131). -/
def gaussChannel (img : Image) (x y : Nat) (c : Colour) : Nat := gaussAcc img x y c / gaussDivisor

/-- The colour bytes of `O(x, y)` (R132). The channels are independent lanes (R133). -/
def gaussPixel (img : Image) (_ : Tables) (x y : Nat) : Rgb :=
  ⟨BitVec.ofNat 8 (gaussChannel img x y .red), BitVec.ofNat 8 (gaussChannel img x y .green),
   BitVec.ofNat 8 (gaussChannel img x y .blue)⟩

/-- GAUSS5 builds no table. -/
def gaussTables (_ : Image) : Tables := Tables.empty

/-- GAUSS5 (R132): its issue on a host turn, its completion on an engine turn. -/
def execGauss5 (s : State) : Outcome := commandEvent .gauss5 gaussTables gaussPixel s

end Sys2Proof.Machine
end

