-- ==== Sys2Proof/Machine/Histogram.lean ====
section
/-! DEFINITION. HISTEQ, the histogram accumulator and the CDF lookup-table generator (43_histogram_cdf.md). The tables are
computed over unbounded integers (R9) and held at their widths (R40), which they never exceed (R140, R141, R143). -/

namespace Sys2Proof.Machine

/-- HIST_BINS (R7). -/
def histBins : Nat := 256

/-- hist: how many pixels have each luma (R140). -/
def histogram (img : Image) : List Nat := (List.range histBins).map fun i => img.lumas.count i

/-- The running sums of a list, from `acc` on. -/
def prefixSums (acc : Nat) : List Nat → List Nat
  | [] => []
  | h :: t => (acc + h) :: prefixSums (acc + h) t

/-- cdf: `cdf[0] = hist[0]`, `cdf[i] = cdf[i−1] + hist[i]` (R141). -/
def cumulative (img : Image) : List Nat := prefixSums 0 (histogram img)

/-- cdfMin: "the smallest nonzero cdf value encountered as i increases from 0" (R142). An image of no pixel has none; issue
refuses it. -/
def cdfMinimum (img : Image) : Nat := ((cumulative img).find? fun c => decide (0 < c)).getD 0

/-- D = N − cdfMin (R143). -/
def cdfRange (img : Image) : Nat := img.pixelCount - cdfMinimum img

/-- `lut[i]` for a luma i with cdf[i] = `c`: the identity on a flat image, D = 0 (R144); else 0 below cdfMin and the nearest
integer to 255·(c − cdfMin)/D, clamped (R143). -/
def lutEntry (img : Image) (i c : Nat) : Nat :=
  if cdfRange img = 0 then i
  else if c < cdfMinimum img then 0
  else min 255 (divNearest (255 * (c - cdfMinimum img)) (cdfRange img))

/-- lut (R143, R144). -/
def lookupTable (img : Image) : List Nat :=
  (List.range histBins).map fun i => lutEntry img i ((cumulative img).getD i 0)

/-- The tables HISTEQ builds from its snapshot (R40, R145). -/
def histeqTables (img : Image) : Tables where
  hist := (histogram img).map (BitVec.ofNat 32)
  cdf := (cumulative img).map (BitVec.ofNat 32)
  cdfMin := BitVec.ofNat 32 (cdfMinimum img)
  lut := (lookupTable img).map (BitVec.ofNat 8)
  gray := []

/-- The colour bytes of `O(x, y)`: `lut[l]` in R, G and B for the pixel's luma l (R145). -/
def histeqPixel (img : Image) (t : Tables) (x y : Nat) : Rgb := Rgb.gray (t.lut.getD (img.pixelAt x y).luma 0#8)

/-- HISTEQ (R145): its issue on a host turn, its completion on an engine turn. -/
def execHisteq (s : State) : Outcome := commandEvent .histeq histeqTables histeqPixel s

end Sys2Proof.Machine
end

