-- ==== Sys2Proof/Machine/Sobel.lean ====
section
/-! DEFINITION. SOBEL, the gradient-magnitude edge detector (44_sobel.md). -/

namespace Sys2Proof.Machine

/-- SX, rows j = 0 to 2 (R160). -/
def sobelX : List (List Int) := [[-1, 0, 1], [-2, 0, 2], [-1, 0, 1]]

/-- SY = −(SXᵀ), rows j = 0 to 2 (R160). -/
def sobelY : List (List Int) := [[1, 2, 1], [0, 0, 0], [-1, -2, -1]]

/-- Row j, column i of a kernel (R160). -/
def kernelAt (k : List (List Int)) (j i : Nat) : Int := (k.getD j []).getD i 0

/-- The tables SOBEL builds from its snapshot: gray, the luma of each pixel (R40, R161). -/
def sobelTables (img : Image) : Tables := { Tables.empty with gray := img.lumas.map (BitVec.ofNat 8) }

/-- `g(x, y) = gray[y·W + x]` (R161). -/
def grayAt (img : Image) (t : Tables) (x y : Nat) : Nat := (t.gray.getD (y * img.width + x) 0#8).toNat

/-- `Σ_j Σ_i k[j][i] · g(x + i − 1, y + j − 1)` at an interior pixel (R162). -/
def sobelGradient (k : List (List Int)) (img : Image) (t : Tables) (x y : Nat) : Int :=
  footprintSumInt 3 fun j i => kernelAt k j i * (grayAt img t (x + i - 1) (y + j - 1) : Int)

/-- Gx² + Gy², of the kernels `kx` and `ky` (R162). -/
def gradientSquared (kx ky : List (List Int)) (img : Image) (t : Tables) (x y : Nat) : Nat :=
  (sobelGradient kx img t x y * sobelGradient kx img t x y +
    sobelGradient ky img t x y * sobelGradient ky img t x y).toNat

/-- The magnitude of the kernels `kx` and `ky`: 0 on the border, else `min(255, isqrt(Gx·Gx + Gy·Gy))` (R162, C1). -/
def magnitudeOf (kx ky : List (List Int)) (img : Image) (t : Tables) (x y : Nat) : Nat :=
  if img.isBorder x y then 0 else min 255 (isqrt (gradientSquared kx ky img t x y))

/-- m, with SX and SY (R160, R162). -/
def sobelMagnitude (img : Image) (t : Tables) (x y : Nat) : Nat := magnitudeOf sobelX sobelY img t x y

/-- The colour bytes of `O(x, y)`: m in R, G and B (R162). -/
def sobelPixel (img : Image) (t : Tables) (x y : Nat) : Rgb := Rgb.gray (BitVec.ofNat 8 (sobelMagnitude img t x y))

/-- SOBEL (R162): its issue on a host turn, its completion on an engine turn. -/
def execSobel (s : State) : Outcome := commandEvent .sobel sobelTables sobelPixel s

end Sys2Proof.Machine
end

