-- ==== Sys2Proof/Machine/Dispatch.lean ====
section
/-! DEFINITION. One arm per command, each a direct call of its meaning. -/

namespace Sys2Proof.Machine

def exec (i : Instr) (s : State) : Host.Outcome State Fault Refusal :=
  match i with
  | .gauss5 => Sys2Proof.Machine.execGauss5 s
  | .histeq => Sys2Proof.Machine.execHisteq s
  | .sobel => Sys2Proof.Machine.execSobel s

end Sys2Proof.Machine
end

