-- ==== Sys2Proof/Machine/Registers.lean ====
section
/-! DEFINITION. The register window (R23): which register an offset selects, register reads (R100) and every register write
but that of CMD (R101 to R104). -/

namespace Sys2Proof.Machine

/-- The registers of the window (R23). -/
inductive Reg where
  | id
  | ctrl
  | status
  | cmd
  | base
  | width
  | height
  | caps
  /-- Offsets 0x20 to 0x3C (R32). -/
  | reserved
deriving DecidableEq, Repr

/-- `off[5:2]` selects the register (R23, R75). -/
def regAt (off : Offset) : Reg :=
  match (off.extractLsb' 2 4).toNat with
  | 0 => .id
  | 1 => .ctrl
  | 2 => .status
  | 3 => .cmd
  | 4 => .base
  | 5 => .width
  | 6 => .height
  | 7 => .caps
  | _ => .reserved

/-- `RD off` (R100). A read has no side effect. -/
def State.readReg (s : State) : Reg → Word
  | .id => idWord
  | .ctrl => s.ctrlWord
  | .status => s.statusWord
  | .cmd => 0#32
  | .base => s.base
  | .width => s.width.setWidth 32
  | .height => s.height.setWidth 32
  | .caps => s.params.capsWord
  | .reserved => 0#32

/-- `WR CTRL, d` (R101): bit 1 performs the soft reset (R232), else IE takes bit 0. -/
def State.writeCtrl (s : State) (d : Word) : State :=
  if d.getLsbD 1 then s.resetBlock else { s with ie := d.getLsbD 0 }

/-- `WR BASE, d` (R103). -/
def State.writeBase (s : State) (d : Word) : State := { s with base := d }

/-- `WR WIDTH, d`: d[31:16] ignored (R103). -/
def State.writeWidth (s : State) (d : Word) : State := { s with width := d.setWidth 16 }

/-- `WR HEIGHT, d`: d[31:16] ignored (R103). -/
def State.writeHeight (s : State) (d : Word) : State := { s with height := d.setWidth 16 }

/-- `WR CMD, w` (R105). A legal word is the CMD write of the command it decodes to; an illegal one meets the same issue,
which drops it or reports BAD_OPCODE (R73). `run` is the machine's `exec`. -/
def writeCmd (run : Instr → State → Outcome) (w : Word) (s : State) : Outcome :=
  match decode w with
  | some i => run i s
  | none => issue w (fun _ => Tables.empty) s

/-- A host write of a register (R101 to R105). -/
def writeReg (run : Instr → State → Outcome) (r : Reg) (d : Word) (s : State) : Outcome :=
  match r with
  | .id => .next s
  | .ctrl => .next (s.writeCtrl d)
  | .status => .next (s.writeStatus d)
  | .cmd => writeCmd run d s
  | .base => .next (s.writeBase d)
  | .width => .next (s.writeWidth d)
  | .height => .next (s.writeHeight d)
  | .caps => .next s
  | .reserved => .next s

end Sys2Proof.Machine
end

