-- ==== Sys2Proof/Machine/Turns.lean ====
section
/-! DEFINITION. What happens in a turn of the host (R76, R77, R61), of the engine (R107), and of the reset pin (R230), and
who moves next (R207). `run` is the machine's `exec`. -/

namespace Sys2Proof.Machine

/-- The host puts a register's value on `regReadData` (R100). -/
def State.hostReadsReg (s : State) (r : Reg) : State := { s with regReadData := s.readReg r }

/-- `s` with `op` still to be done: a wait whose event has not happened (R77). -/
def State.againFirst (s : State) (op : HostOp) : State := { s with hostOps := op :: s.hostOps }

/-- What the host reads from a byte of memory: any value for an R, G or B byte of the running command's region (R61 (a)),
else memory's current value (R61 (c)). -/
def State.hostReadsMem (s : State) (a : Nat) : State :=
  match s.engine with
  | .idle => { s with memReadData := s.mem.read a }
  | .busy r =>
    if r.shadow.isColour a then { s with memReadData := Config.freeByte s.freeDraws, freeDraws := s.freeDraws + 1 }
    else { s with memReadData := s.mem.read a }

/-- The engine after a host write of address `a`: a write of the running command's region is a race (R61 (b)). -/
def Engine.noteHostWrite : Engine → Nat → Engine
  | .idle, _ => .idle
  | .busy r, a => .busy { r with hostWrote := r.hostWrote || r.shadow.covers a }

/-- The host writes a byte of memory (R60 (a), R61 (b)). -/
def State.hostWritesMem (s : State) (a : Nat) (v : Byte) : State :=
  { s with mem := s.mem.write a v, engine := s.engine.noteHostWrite a }

/-- One transaction of the host, already taken from `hostOps`. -/
def hostOp (run : Instr → State → Outcome) (op : HostOp) (s : State) : Outcome :=
  match op with
  | .regRead off size =>
    if wellFormedAccess off size then .next (s.hostReadsReg (regAt off)) else .refused .registerAccessNotWord
  | .regWrite off size d =>
    if wellFormedAccess off size then writeReg run (regAt off) d s else .refused .registerAccessNotWord
  | .poll off mask val =>
    if wellFormedAccess off 4 then
      if s.readReg (regAt off) &&& mask = val then .next (s.hostReadsReg (regAt off))
      else .next ((s.hostReadsReg (regAt off)).againFirst (.poll off mask val))
    else .refused .registerAccessNotWord
  | .waitIrq => if s.irq then .next s else .next (s.againFirst .waitIrq)
  | .memRead a => if s.params.isMemory a.toNat then .next (s.hostReadsMem a.toNat) else .refused .hostAccessNotMemory
  | .memWrite a v =>
    if s.params.isMemory a.toNat then .next (s.hostWritesMem a.toNat v) else .refused .hostAccessNotMemory

/-- The host's turn: its next transaction, or nothing when it has none (R246). -/
def hostTurn (run : Instr → State → Outcome) (s : State) : Outcome :=
  match s.hostOps with
  | [] => .next s
  | op :: rest => hostOp run op { s with hostOps := rest }

/-- The running command, from its sh_op (R38, R71). -/
def Shadow.command (sh : Shadow) : Option Instr := decode (sh.op.setWidth 32)

/-- The engine's turn: an IDLE engine does nothing (R57, R216); a BUSY one takes its step of the command it runs. sh_op = 0
is taken by no accept. -/
def engineTurn (run : Instr → State → Outcome) (s : State) : Outcome :=
  match s.engine with
  | .idle => .next s
  | .busy r =>
    match r.shadow.command with
    | some i => run i s
    | none => .next s

/-- Who moves after this turn where `later` does not say: host and engine alternate, so that neither waits for ever
(R107's weak fairness). -/
def Turn.following : Turn → Turn
  | .host => .engine .served
  | .engine _ => .host
  | .resetPin => .host

/-- The turn passes on (R207: every order is a run). -/
def State.endTurn (s : State) : State :=
  match s.later with
  | [] => { s with turn := s.turn.following }
  | t :: ts => { s with turn := t, later := ts }

/-- Applies `f` to the next state of an outcome. -/
def mapNext (f : State → State) : Outcome → Outcome
  | .next s => .next (f s)
  | .fault r => .fault r
  | .refused r => .refused r

/-- The event of the turn (R4). -/
def event (run : Instr → State → Outcome) (s : State) : Outcome :=
  match s.turn with
  | .host => hostTurn run s
  | .engine _ => engineTurn run s
  | .resetPin => .next s.resetBlock

/-- One step: the event of the turn, and the turn passes on. -/
def stepWith (run : Instr → State → Outcome) (s : State) : Outcome := mapNext State.endTurn (event run s)

/-- `ACK` (R77). -/
def ackOp : HostOp := .regWrite 0x08#6 4 0x0000000E#32

/-- `RUN op, base, w, h` (R77). -/
def runOps (i : Instr) (base w h : Word) : List HostOp :=
  [.regWrite 0x10#6 4 base, .regWrite 0x14#6 4 w, .regWrite 0x18#6 4 h, .regWrite 0x0C#6 4 (encode i),
   .poll 0x08#6 0x2#32 0x2#32]

/-- `WR CMD, w`, as the host's transaction (R76). -/
def cmdWrite (w : Word) : HostOp := .regWrite 0x0C#6 4 w

end Sys2Proof.Machine
end

