-- ==== Sys2Proof/Machine/Step.lean ====
section
/-! DEFINITION. The step of the machine, and the state whose very next step runs a given command word. -/

namespace Sys2Proof.Machine

/-- One step of the machine (R4): one event of the agent whose turn it is. -/
def step (s : State) : Host.Outcome State Fault Refusal := stepWith exec s

/-- `s` with the word `w` where the next step takes its command from: the data of the host's next transaction, a CMD write,
on the host's turn (R64, R105). Nothing else changes. `notes/assumptions/2.md`. -/
def State.withFetchWord (s : State) (nbits w : Nat) : State :=
  { s with turn := .host, hostOps := cmdWrite (BitVec.ofNat 32 (w % 2 ^ nbits)) :: s.hostOps }

end Sys2Proof.Machine
end

