-- ==== Sys2Proof/Safety.lean ====
section
/-! DEFINITION. What claims call a good state, a host transaction that the model gives a meaning, and a host that keeps its
duties (R241). -/

namespace Sys2Proof.Machine

/-- The tables a command builds from its snapshot (R40, R140 to R144, R161). -/
def tablesOf : Instr → Image → Tables
  | .gauss5 => gaussTables
  | .histeq => histeqTables
  | .sobel => sobelTables

/-- The colour bytes a command's rule gives for pixel (x, y): F[op] of R108. -/
def outputOf : Instr → Image → Tables → Nat → Nat → Rgb
  | .gauss5 => gaussPixel
  | .histeq => histeqPixel
  | .sobel => sobelPixel

/-- The parameters are in the ranges of R7: each maximum is at least 1 (16 bits hold no more than 65535). -/
def Params.inRange (p : Params) : Prop := p.maxWidth ≠ 0#16 ∧ p.maxHeight ≠ 0#16

/-- What a running command holds is what accept gave it: a shadow that passed issue (R105, R201) and the launch contract
(R241), a snapshot of W·H pixels (R55), and the tables that its rule builds from the snapshot (R40). -/
structure Running.Good (p : Params) (r : Running) : Prop where
  checked : issueCheck p (r.shadow.op.setWidth 32) r.shadow.base r.shadow.width r.shadow.height = none
  launched : p.launchAllowed r.shadow.start r.shadow.stop = true
  snapshotLength : r.snapshot.length = r.shadow.pixelCount
  tables : ∀ i, r.shadow.command = some i → r.tables = tablesOf i r.image

/-- The invariant of the machine. -/
structure State.Inv (s : State) : Prop where
  /-- R7. -/
  params : s.params.inRange
  /-- Memory is canonical data. -/
  memCanonical : s.mem.wf = true
  /-- R43 (b): 2^32 bytes. -/
  memInSpace : s.mem.inSpace = true
  /-- R26: ERRCODE is "0 when ERR = 0". -/
  noErrorNoCode : s.err = false → s.errcode = 0#4
  /-- R200: codes 7 to 15 are never produced, and an error has a code. -/
  errorHasCode : s.err = true → 1 ≤ s.errcode.toNat ∧ s.errcode.toNat ≤ 6
  /-- R106, R241. -/
  runningGood : ∀ r, s.engine = .busy r → r.Good s.params
  /-- R100: while BUSY, DONE = ERR = 0. -/
  runningNoReport : ∀ r, s.engine = .busy r → s.done = false ∧ s.err = false
  /-- R55, R57: until completion the region is as the snapshot says, unless the host wrote to it. -/
  runningSnapshot : ∀ r, s.engine = .busy r → r.hostWrote = false → s.snapshotOf r.shadow = r.snapshot

/-- The running command's region has not been written by the host since accept (R61 (b)). -/
def State.noRace (s : State) : Prop := ∀ r, s.engine = .busy r → r.hostWrote = false

/-- The transaction has a meaning in the model: a register access is an aligned 32-bit one (R53 (b)), a memory access is to
memory, and a CMD write whose command passes its checks has a region inside the launch contract (R241 (a), (b)). -/
def State.opDefined (s : State) : HostOp → Prop
  | .regRead off size => wellFormedAccess off size = true
  | .regWrite off size d =>
    wellFormedAccess off size = true ∧
      (regAt off = .cmd → s.engine = .idle → issueCheck s.params d s.base s.width s.height = none →
        s.params.launchAllowed (s.shadowOf d).start (s.shadowOf d).stop = true)
  | .poll off _ _ => wellFormedAccess off 4 = true
  | .waitIrq => True
  | .memRead a => s.params.isMemory a.toNat = true
  | .memWrite a _ => s.params.isMemory a.toNat = true

/-- If the host moves now, its next transaction has a meaning. -/
def State.hostDefined (s : State) : Prop := s.turn = .host → ∀ op rest, s.hostOps = op :: rest → s.opDefined op

/-- The transaction keeps the host's duties while a command runs: no access of its region (R241 (c)), no CMD write
(R241 (d)). -/
def State.opDisciplined (s : State) : HostOp → Prop
  | .regRead _ _ => True
  | .regWrite off _ _ => regAt off = .cmd → s.engine = .idle
  | .poll _ _ _ => True
  | .waitIrq => True
  | .memRead a => ∀ r, s.engine = .busy r → r.shadow.covers a.toNat = false
  | .memWrite a _ => ∀ r, s.engine = .busy r → r.shadow.covers a.toNat = false

/-- If the host moves now, it keeps its duties. -/
def State.hostDisciplined (s : State) : Prop := s.turn = .host → ∀ op rest, s.hostOps = op :: rest → s.opDisciplined op

end Sys2Proof.Machine
end

