-- ==== Sys2Proof/Certificates/Slice0/Obligations.lean ====
section
/-! DEFINITION. The statements for the provers. The definitions under `Sys2Proof.Rule` write the spec's formulas a second
time, independently of the model's own definitions, or name a group of hypotheses or a frame. -/

open Sys2Proof Sys2Proof.Machine

/-! ### Hypotheses and frames -/

/-- It is the host's turn and `op` is its next transaction. -/
def Sys2Proof.Rule.hostDoes (s : State) (op : HostOp) (rest : List HostOp) : Prop :=
  s.turn = .host ∧ s.hostOps = op :: rest

/-- The step answers `t` with the transaction taken from the host's list and the turn passed on, and nothing else. -/
def Sys2Proof.Rule.answers (s t : State) (rest : List HostOp) : Prop :=
  step s = .next (State.endTurn { t with hostOps := rest })

/-- The engine runs the command with opcode `op` and may take its successful completion (R107): memory has answered and
answers every access, the region is inside memory space, the host has not written to it since accept, and (the invariant of R55 and R57)
memory still holds the snapshot there. -/
structure Sys2Proof.Rule.MayComplete (op : BitVec 2) (s : State) (r : Running) : Prop where
  turn : s.turn = .engine .served
  busy : s.engine = .busy r
  op : r.shadow.op = op
  inSpace : r.shadow.stop ≤ 2 ^ 32
  admitted : s.params.admits r.shadow.start r.shadow.stop = true
  answered : r.unanswered = false
  noRace : r.hostWrote = false
  canonical : s.mem.wf = true
  snapshot : s.snapshotOf r.shadow = r.snapshot

/-- The frame of a successful completion: nothing changes but memory, the engine's state and DONE (R108). -/
def Sys2Proof.Rule.completionFrame (s t : State) : Prop := t = { s with engine := .idle, done := true, mem := t.mem }

/-- Every byte that is no R, G or B byte of the running command's region reads as before (R56, R57). -/
def Sys2Proof.Rule.keepsOthers (r : Running) (s t : State) : Prop :=
  ∀ a, r.shadow.isColour a = false → t.mem.read a = s.mem.read a

/-- Alpha passes through: O(x, y, 3) = S(x, y, 3) for every pixel (R56). -/
def Sys2Proof.Rule.alphaPasses (r : Running) (t : State) : Prop :=
  ∀ x y, x < r.shadow.width.toNat → y < r.shadow.height.toNat →
    t.mem.read (r.shadow.alphaAddr x y) = (r.image.pixelAt x y).a

/-- Every R, G and B byte of the region is a free value: a draw that nothing constrains (R61, R202, R231). That each byte has
a draw of its own, numbered in memory order, is the model's choice: log 6. -/
def Sys2Proof.Rule.coloursFree (sh : Shadow) (s t : State) : Prop :=
  ∀ k, k < sh.pixelCount → ∀ c : Colour,
    t.mem.read (sh.start + 4 * k + c.offset) = Config.freeByte (s.freeDraws + 3 * k + c.offset)

/-- An access of the command gets an error response in an engine turn with memory's answer `a` (R202): memory errs where it
admits an access, or MEM_FAULT_RESPONSE is ERROR where it admits one not, and no access is left unanswered. -/
def Sys2Proof.Rule.getsError (p : Params) (sh : Shadow) (a : BusAnswer) : Prop :=
  (a = .error ∧ (p.admits sh.start sh.stop = true ∨ p.admitsSome sh = true)) ∨
  (p.admits sh.start sh.stop = false ∧ p.memFault = .error ∧ (a = .served ∨ p.admitsSome sh = false))

/-- An access of the command is never answered in an engine turn with memory's answer `a` (R202): memory leaves one that it
admits unanswered, or MEM_FAULT_RESPONSE is HANG where it admits one not. -/
def Sys2Proof.Rule.neverAnswered (p : Params) (sh : Shadow) (a : BusAnswer) : Prop :=
  (a = .never ∧ (p.admits sh.start sh.stop = true ∨ p.admitsSome sh = true)) ∨
  (p.admits sh.start sh.stop = false ∧ p.memFault = .hang ∧ (a = .served ∨ p.admitsSome sh = false))

/-- What a reset leaves, but for memory (R44): every register at its reset value; what is not the block's is unchanged. -/
def Sys2Proof.Rule.resetFrame (s t : State) : Prop :=
  t = { s with
    ie := false, done := false, err := false, ovr := false, errcode := 0#4, base := 0#32, width := 0#16, height := 0#16,
    engine := .idle, mem := t.mem, freeDraws := t.freeDraws, hostOps := t.hostOps, turn := t.turn, later := t.later }

/-- What a reset does to memory: nothing while IDLE; while BUSY every byte but the R, G and B bytes of the command's region,
which are any value, is unchanged (R231). -/
def Sys2Proof.Rule.resetMemory (s t : State) : Prop :=
  (s.engine = .idle → t.mem = s.mem) ∧ (∀ r, s.engine = .busy r → Rule.keepsOthers r s t)

/-- The transaction is a soft reset: a 32-bit write of CTRL with bit 1 = 1 (R232). -/
def Sys2Proof.Rule.softReset (op : HostOp) : Prop :=
  ∃ off d, op = .regWrite off 4 d ∧ regAt off = .ctrl ∧ d.getLsbD 1 = true

/-- The event of the step is a reset: the pin (R230) or a soft reset (R232). -/
def Sys2Proof.Rule.isReset (s : State) : Prop :=
  s.turn = .resetPin ∨ ∃ op rest, Rule.hostDoes s op rest ∧ Rule.softReset op

/-- The event of the step is a 32-bit write of STATUS with bit `b` = 1 (R102). -/
def Sys2Proof.Rule.clearsStatusBit (s : State) (b : Nat) : Prop :=
  ∃ off d rest, Rule.hostDoes s (.regWrite off 4 d) rest ∧ regAt off = .status ∧ d.getLsbD b = true

/-- The event of the step is a 32-bit write of the word `w` to CMD (R105). -/
def Sys2Proof.Rule.writesCmd (s : State) (w : Word) : Prop :=
  ∃ off rest, Rule.hostDoes s (.regWrite off 4 w) rest ∧ regAt off = .cmd

/-- A CMD write that is accepted: the engine is IDLE and every check passes (R105, R106). -/
def Sys2Proof.Rule.accepts (s : State) : Prop :=
  ∃ w, Rule.writesCmd s w ∧ s.engine = .idle ∧ issueCheck s.params w s.base s.width s.height = none

/-- A CMD write that is refused at issue with the error `e` (R105, R201). -/
def Sys2Proof.Rule.refusesIssue (s : State) (e : ErrorCode) : Prop :=
  ∃ w, Rule.writesCmd s w ∧ s.engine = .idle ∧ issueCheck s.params w s.base s.width s.height = some e

/-- It is the engine's turn and it runs a command. -/
def Sys2Proof.Rule.engineRuns (s : State) : Prop := (∃ a, s.turn = .engine a) ∧ s.busy = true

/-! ### The spec's formulas, written again -/

/-- What `RD off` returns (R100), by the offset's number. -/
def Sys2Proof.Rule.readValue (s : State) (off : Nat) : Nat :=
  if off = 0x00 then 0x4B490007
  else if off = 0x04 then s.ie.toNat
  else if off = 0x08 then
    256 * s.errcode.toNat + 8 * s.ovr.toNat + 4 * s.err.toNat + 2 * s.done.toNat + s.busy.toNat
  else if off = 0x0C then 0
  else if off = 0x10 then s.base.toNat
  else if off = 0x14 then s.width.toNat
  else if off = 0x18 then s.height.toNat
  else if off = 0x1C then 65536 * s.params.maxHeight.toNat + s.params.maxWidth.toNat
  else 0

/-- The table of R130. -/
def Sys2Proof.Rule.gaussKernel : List (List Nat) :=
  [[1, 4, 6, 4, 1], [4, 16, 24, 16, 4], [6, 24, 36, 24, 6], [4, 16, 24, 16, 4], [1, 4, 6, 4, 1]]

/-- `(Σ_ky Σ_kx K[ky][kx] · sample(S, x + kx − 2, y + ky − 2, c)) >> 8` (R132), the coordinates clamped into the image: a
coordinate below 0 becomes 0 (subtraction of naturals), one past the edge becomes the edge (R120). -/
def Sys2Proof.Rule.gauss (img : Image) (x y : Nat) (c : Colour) : Nat :=
  (∑ ky ∈ Finset.range 5, ∑ kx ∈ Finset.range 5,
    ((Rule.gaussKernel.getD ky []).getD kx 0) *
      (img.pixelAt (min (x + kx - 2) (img.width - 1)) (min (y + ky - 2) (img.height - 1))).channel c) / 256

/-- `luma` (R121) of the pixel (x, y). -/
def Sys2Proof.Rule.lumaAt (img : Image) (x y : Nat) : Nat :=
  min 255 ((299 * (img.pixelAt x y).r.toNat + 587 * (img.pixelAt x y).g.toNat + 114 * (img.pixelAt x y).b.toNat + 500)
    / 1000)

/-- hist[i]: how many pixels of the image have luma i (R140). -/
def Sys2Proof.Rule.hist (img : Image) (i : Nat) : Nat :=
  ((Finset.range img.width ×ˢ Finset.range img.height).filter fun p => Rule.lumaAt img p.1 p.2 = i).card

/-- cdf[i] = hist[0] + … + hist[i] (R141). -/
def Sys2Proof.Rule.cdf (img : Image) (i : Nat) : Nat := ∑ j ∈ Finset.range (i + 1), Rule.hist img j

/-- i0 is the least luma present in the image (R142). -/
def Sys2Proof.Rule.leastLuma (img : Image) (i0 : Nat) : Prop := 0 < Rule.hist img i0 ∧ ∀ j, j < i0 → Rule.hist img j = 0

/-- lut[l] for a luma l that occurs in the image, i0 the least one: D = N − hist[i0]; the identity if D = 0 (R144), else
`(510·(cdf[l] − hist[i0]) + D) div (2·D)` (R143; the clamp never acts there). -/
def Sys2Proof.Rule.equalized (img : Image) (i0 l : Nat) : Nat :=
  if img.width * img.height - Rule.hist img i0 = 0 then l
  else
    (510 * (Rule.cdf img l - Rule.hist img i0) + (img.width * img.height - Rule.hist img i0)) /
      (2 * (img.width * img.height - Rule.hist img i0))

/-- Gx at an interior pixel: SX read column by column (R160, R162). -/
def Sys2Proof.Rule.gx (img : Image) (x y : Nat) : Int :=
  ((Rule.lumaAt img (x + 1) (y - 1) : Int) + 2 * Rule.lumaAt img (x + 1) y + Rule.lumaAt img (x + 1) (y + 1)) -
    (Rule.lumaAt img (x - 1) (y - 1) + 2 * Rule.lumaAt img (x - 1) y + Rule.lumaAt img (x - 1) (y + 1))

/-- Gy at an interior pixel: SY read row by row (R160, R162). -/
def Sys2Proof.Rule.gy (img : Image) (x y : Nat) : Int :=
  ((Rule.lumaAt img (x - 1) (y - 1) : Int) + 2 * Rule.lumaAt img x (y - 1) + Rule.lumaAt img (x + 1) (y - 1)) -
    (Rule.lumaAt img (x - 1) (y + 1) + 2 * Rule.lumaAt img x (y + 1) + Rule.lumaAt img (x + 1) (y + 1))

/-- m at (x, y): 0 on the border; else the truncated square root of Gx² + Gy², at most 255 (R162). -/
def Sys2Proof.Rule.magnitude (img : Image) (x y : Nat) : Nat :=
  if x = 0 ∨ x + 1 = img.width ∨ y = 0 ∨ y + 1 = img.height then 0
  else min 255 (Nat.sqrt (Rule.gx img x y * Rule.gx img x y + Rule.gy img x y * Rule.gy img x y).toNat)

/-- Two images have the same luma at the eight neighbours (x + i − 1, y + j − 1), (i, j) ≠ (1, 1), of the pixel (x, y), if it
is an interior one; nothing is asked of a border pixel, nor of any other pixel (R162 (e)). -/
def Sys2Proof.Rule.sameNeighbours (img img' : Image) (x y : Nat) : Prop :=
  0 < x → x + 1 < img.width → 0 < y → y + 1 < img.height →
    ∀ i j, i < 3 → j < 3 → (i, j) ≠ (1, 1) →
      Rule.lumaAt img (x + i - 1) (y + j - 1) = Rule.lumaAt img' (x + i - 1) (y + j - 1)

/-- A kernel with every weight negated. -/
def Sys2Proof.Rule.negated (k : List (List Int)) : List (List Int) := k.map fun row => row.map fun v => -v

/-- A 3×3 kernel with its two indices exchanged. -/
def Sys2Proof.Rule.transposed (k : List (List Int)) : List (List Int) :=
  (List.range 3).map fun j => (List.range 3).map fun i => kernelAt k i j

/-- The kernels whose Gx and Gy the rule may take: SX and SY, either of them negated, the two swapped, or each with its
indices exchanged (R160). -/
def Sys2Proof.Rule.sobelOrientation (kx ky : List (List Int)) : Prop :=
  ∃ a b, (a = sobelX ∨ a = Rule.negated sobelX ∨ a = Rule.transposed sobelY) ∧
    (b = sobelY ∨ b = Rule.negated sobelY ∨ b = Rule.transposed sobelX) ∧ ((kx = a ∧ ky = b) ∨ (kx = b ∧ ky = a))

/-! ### Encoding -/

/-- R71: a decoder selects on the whole word; 1, 2 and 3 are the three legal command words. -/
def Obligations.DecoderSelectsOnTheWholeWord : Prop :=
  ∀ w : Word,
    (decode w = some .gauss5 ↔ w = 0x00000001#32) ∧
    (decode w = some .histeq ↔ w = 0x00000002#32) ∧
    (decode w = some .sobel ↔ w = 0x00000003#32) ∧
    (decode w = none ↔ w ≠ 0x00000001#32 ∧ w ≠ 0x00000002#32 ∧ w ≠ 0x00000003#32)

/-- Words written out from R70, R71 and R73: OP in bits 3:0, RSVD in bits 31:4. -/
def Obligations.WrittenOutWordsDecode : Prop :=
  decodeTableWord 32 0b00000000000000000000000000000001 = some .gauss5 ∧
  decodeTableWord 32 0b00000000000000000000000000000010 = some .histeq ∧
  decodeTableWord 32 0b00000000000000000000000000000011 = some .sobel ∧
  decodeTableWord 32 0b00000000000000000000000000010001 = none ∧
  decodeTableWord 32 0b10000000000000000000000000000001 = none ∧
  decodeTableWord 32 0b00000000000000000000000000000000 = none

/-- Decode and encode agree on every word and every command, and the legal words (R70, R73: RSVD = 0, OP in 0x1 to 0x3)
are exactly the words that decode. -/
def Obligations.DecodeAndEncodeAgreeOnEveryWord : Prop :=
  ∀ w : Word,
    (∀ i, decode w = some i ↔ w = encode i) ∧
    (wellFormedWord w = true ↔ ∃ i, decode w = some i) ∧
    (wellFormedWord w = true ↔ rsvdField w = 0#28 ∧ 1 ≤ (opField w).toNat ∧ (opField w).toNat ≤ 3)

/-- A step runs the decoded command: on the host's turn the command its CMD write's word decodes to, on the engine's turn
the command its sh_op decodes to; the step adds only that the transaction is taken from the list and the turn passes on.
Turns, and where a program stands, are the model's choice: logs 1 and 2. -/
def Obligations.StepRunsTheDecodedCommand : Prop :=
  (∀ s w rest i, Rule.hostDoes s (.regWrite 0x0C#6 4 w) rest → decode w = some i →
    step s = mapNext State.endTurn (exec i { s with hostOps := rest })) ∧
  (∀ s a r i, s.turn = .engine a → s.engine = .busy r → decode (r.shadow.op.setWidth 32) = some i →
    step s = mapNext State.endTurn (exec i s)) ∧
  (∀ (s : State) i, step (s.withFetchWord 32 (encode i).toNat) = mapNext State.endTurn (exec i { s with turn := .host }))

/-- R73: an illegal command word is refused with code 1 while IDLE, and dropped with OVR while BUSY. -/
def Obligations.IllegalWordIsRefusedOrDropped : Prop :=
  ∀ s w rest, Rule.hostDoes s (.regWrite 0x0C#6 4 w) rest →
    w ≠ 0x00000001#32 → w ≠ 0x00000002#32 → w ≠ 0x00000003#32 →
    (s.engine = .idle → Rule.answers s { s with done := true, err := true, errcode := 1#4 } rest) ∧
    (s.busy = true → Rule.answers s { s with ovr := true } rest)

/-! ### The register window -/

/-- R100: what a register read returns, that it changes nothing else, and that another access is refused; while BUSY, STATUS
reads DONE = ERR = ERRCODE = 0. -/
def Obligations.RegisterReadReturnsItsWord : Prop :=
  (∀ s (off : Offset) size rest, Rule.hostDoes s (.regRead off size) rest →
    (size = 4 ∧ off.toNat % 4 = 0 →
      Rule.answers s { s with regReadData := BitVec.ofNat 32 (Rule.readValue s off.toNat) } rest) ∧
    (¬ (size = 4 ∧ off.toNat % 4 = 0) → step s = .refused .registerAccessNotWord)) ∧
  (∀ s : State, s.Inv → s.busy = true → Rule.readValue s 0x08 = 8 * s.ovr.toNat + 1)

/-- R101: `WR CTRL, d`. -/
def Obligations.WriteCtrlSetsEnableOrResets : Prop :=
  ∀ s d rest, Rule.hostDoes s (.regWrite 0x04#6 4 d) rest →
    (d.getLsbD 1 = false → Rule.answers s { s with ie := d.getLsbD 0 } rest) ∧
    (d.getLsbD 1 = true →
      ∃ t, step s = .next t ∧ t.hostOps = rest ∧ Rule.resetFrame s t ∧ Rule.resetMemory s t)

/-- R102: `WR STATUS, d` clears DONE, ERR with ERRCODE, and OVR, each where d has a 1, and nothing else. -/
def Obligations.WriteStatusClearsWhereOne : Prop :=
  ∀ s d rest, Rule.hostDoes s (.regWrite 0x08#6 4 d) rest →
    Rule.answers s
      { s with
        done := if d.getLsbD 1 then false else s.done
        err := if d.getLsbD 2 then false else s.err
        errcode := if d.getLsbD 2 then 0#4 else s.errcode
        ovr := if d.getLsbD 3 then false else s.ovr } rest

/-- R103: `WR BASE`, `WR WIDTH` and `WR HEIGHT`, in either engine state. -/
def Obligations.WriteOperandRegisters : Prop :=
  ∀ s d rest,
    (Rule.hostDoes s (.regWrite 0x10#6 4 d) rest → Rule.answers s { s with base := d } rest) ∧
    (Rule.hostDoes s (.regWrite 0x14#6 4 d) rest →
      Rule.answers s { s with width := BitVec.ofNat 16 (d.toNat % 65536) } rest) ∧
    (Rule.hostDoes s (.regWrite 0x18#6 4 d) rest →
      Rule.answers s { s with height := BitVec.ofNat 16 (d.toNat % 65536) } rest)

/-- R104: a write to ID, CAPS or a reserved offset changes nothing and raises nothing. -/
def Obligations.WriteOfReadOnlyChangesNothing : Prop :=
  ∀ s (off : Offset) d rest, Rule.hostDoes s (.regWrite off 4 d) rest → off.toNat % 4 = 0 →
    (off.toNat = 0x00 ∨ off.toNat = 0x1C ∨ 0x20 ≤ off.toNat) → Rule.answers s s rest

/-- R53 (b): a register write or poll that is not an aligned 32-bit access is refused, whatever the register. -/
def Obligations.NarrowOrMisalignedAccessIsRefused : Prop :=
  ∀ s (off : Offset) rest,
    (∀ size d, Rule.hostDoes s (.regWrite off size d) rest → ¬ (size = 4 ∧ off.toNat % 4 = 0) →
      step s = .refused .registerAccessNotWord) ∧
    (∀ mask val, Rule.hostDoes s (.poll off mask val) rest → off.toNat % 4 ≠ 0 →
      step s = .refused .registerAccessNotWord)

/-- R77: POLL reads its register until the masked value is the awaited one; WAITIRQ waits for `irq`. -/
def Obligations.PollAndWaitRepeatUntilTheirEvent : Prop :=
  (∀ s (off : Offset) mask val rest, Rule.hostDoes s (.poll off mask val) rest → off.toNat % 4 = 0 →
    let v := BitVec.ofNat 32 (Rule.readValue s off.toNat)
    Rule.answers s { s with regReadData := v } (if v &&& mask = val then rest else .poll off mask val :: rest)) ∧
  (∀ s rest, Rule.hostDoes s .waitIrq rest → Rule.answers s s (if s.irq then rest else .waitIrq :: rest))

/-! ### Issue and accept -/

/-- R201: the issue checks, the first failing one deciding. -/
def Obligations.IssueReportsTheFirstFailingCheck : Prop :=
  ∀ (p : Params) (w base : Word) (width height : Half),
    let legal := w = 0x00000001#32 ∨ w = 0x00000002#32 ∨ w = 0x00000003#32
    let zero := width.toNat = 0 ∨ height.toNat = 0
    let tooBig := width.toNat > p.maxWidth.toNat ∨ height.toNat > p.maxHeight.toNat
    let odd := base.toNat % 4 ≠ 0
    let past := base.toNat + 4 * (width.toNat * height.toNat) > 4294967296
    ((issueCheck p w base width height).map ErrorCode.code = some 1#4 ↔ ¬ legal) ∧
    ((issueCheck p w base width height).map ErrorCode.code = some 2#4 ↔ legal ∧ zero) ∧
    ((issueCheck p w base width height).map ErrorCode.code = some 3#4 ↔ legal ∧ ¬ zero ∧ tooBig) ∧
    ((issueCheck p w base width height).map ErrorCode.code = some 4#4 ↔ legal ∧ ¬ zero ∧ ¬ tooBig ∧ odd) ∧
    ((issueCheck p w base width height).map ErrorCode.code = some 5#4 ↔ legal ∧ ¬ zero ∧ ¬ tooBig ∧ ¬ odd ∧ past) ∧
    (issueCheck p w base width height = none ↔ legal ∧ ¬ zero ∧ ¬ tooBig ∧ ¬ odd ∧ ¬ past)

/-- R105: command issue by a CMD write: OVR while BUSY; an error completion if a check fails; else accept. -/
def Obligations.CommandIssue : Prop :=
  ∀ s w rest, Rule.hostDoes s (.regWrite 0x0C#6 4 w) rest →
    (s.busy = true → Rule.answers s { s with ovr := true } rest) ∧
    (∀ e, s.engine = .idle → issueCheck s.params w s.base s.width s.height = some e →
      Rule.answers s { s with done := true, err := true, errcode := e.code } rest) ∧
    (s.engine = .idle → issueCheck s.params w s.base s.width s.height = none →
      s.params.launchAllowed s.base.toNat (s.base.toNat + 4 * (s.width.toNat * s.height.toNat)) = true →
      ∃ t, step s = .next t ∧ t.busy = true ∧ t.hostOps = rest ∧ t.ovr = s.ovr ∧ t.mem = s.mem)

/-- R106: accept, for each command, inside the CMD write that passed its checks: the shadow, the snapshot, the flags, BUSY,
and nothing else. -/
def Obligations.AcceptTakesShadowAndSnapshot : Prop :=
  ∀ i s, s.turn = .host → s.engine = .idle → issueCheck s.params (encode i) s.base s.width s.height = none →
    s.params.launchAllowed s.base.toNat (s.base.toNat + 4 * (s.width.toNat * s.height.toNat)) = true →
    ∃ r : Running,
      exec i s = .next { s with done := false, err := false, errcode := 0#4, engine := .busy r } ∧
      r.shadow.op.toNat = (encode i).toNat % 4 ∧ r.shadow.base = s.base ∧ r.shadow.width = s.width ∧
      r.shadow.height = s.height ∧
      r.snapshot.length = s.width.toNat * s.height.toNat ∧
      ∀ k, k < s.width.toNat * s.height.toNat →
        r.snapshot[k]? = some ⟨s.mem.read (s.base.toNat + 4 * k), s.mem.read (s.base.toNat + 4 * k + 1),
          s.mem.read (s.base.toNat + 4 * k + 2), s.mem.read (s.base.toNat + 4 * k + 3)⟩

/-- The model's choice where the engine is IDLE and the host launches, from any state: the tables that the command's rule
builds from the snapshot are there from accept on, no race is noted yet and no access is unanswered (logs 8, 12 and 14). -/
def Obligations.AcceptBuildsTheTables : Prop :=
  ∀ i s t r, s.turn = .host → s.engine = .idle → exec i s = .next t → t.engine = .busy r →
    r.tables = tablesOf i r.image ∧ r.hostWrote = false ∧ r.unanswered = false

/-- R241 (a), (b) and I8: a launch whose region shares an address with a window that is not ordinary memory, the block's own
register window among them, is refused; no other launch is. The windows are the model's platform map, and one of size 0
covers no address: log 10. -/
def Obligations.LaunchOutsideTheContractIsRefused : Prop :=
  ∀ i s, s.turn = .host → s.engine = .idle → issueCheck s.params (encode i) s.base s.width s.height = none →
    let lo := s.base.toNat
    let hi := s.base.toNat + 4 * (s.width.toNat * s.height.toNat)
    (exec i s = .refused .launchOutsideContract ↔
      (lo < s.params.regBase + 64 ∧ s.params.regBase < hi) ∨
        ∃ w ∈ s.params.windows, w.kind = .notOrdinary ∧
          ∃ a, (lo ≤ a ∧ a < hi) ∧ w.base ≤ a ∧ a < w.base + w.size)

/-- R203: a command refused at issue makes no memory access and changes DONE, ERR and ERRCODE only, for each command. -/
def Obligations.RefusedCommandChangesOnlyTheReport : Prop :=
  ∀ i s e, s.turn = .host → s.engine = .idle → issueCheck s.params (encode i) s.base s.width s.height = some e →
    exec i s = .next { s with done := true, err := true, errcode := e.code } ∧ 1 ≤ e.code.toNat ∧ e.code.toNat ≤ 5

/-! ### The flags of STATUS, over every step -/

/-- R33: BUSY is set only by an accept, and cleared only by a completion, which sets DONE, or by a reset; every accept sets
it and every reset clears it. -/
def Obligations.BusyFollowsAcceptAndCompletion : Prop :=
  ∀ s t, step s = .next t →
    (s.busy = false → t.busy = true → Rule.accepts s) ∧
    (s.busy = true → t.busy = false → (Rule.engineRuns s ∧ t.done = true) ∨ Rule.isReset s) ∧
    (Rule.accepts s → t.busy = true) ∧
    (Rule.isReset s → t.busy = false)

/-- R34: DONE is set at every completion (a successful one, a refused issue, a bus error) and only there; it is cleared only
by a STATUS write with bit 1 = 1, by an accept, or by a reset, and by each of them. -/
def Obligations.DoneFollowsCompletion : Prop :=
  ∀ s t, step s = .next t →
    (s.done = false → t.done = true →
      (Rule.engineRuns s ∧ t.busy = false) ∨ ∃ e, Rule.refusesIssue s e) ∧
    (s.done = true → t.done = false → Rule.clearsStatusBit s 1 ∨ Rule.accepts s ∨ Rule.isReset s) ∧
    ((Rule.engineRuns s ∧ t.busy = false) ∨ (∃ e, Rule.refusesIssue s e) → t.done = true) ∧
    (Rule.clearsStatusBit s 1 ∨ Rule.accepts s ∨ Rule.isReset s → t.done = false)

/-- R35: ERR and ERRCODE are set together, by a refused issue (with that check's code) or a bus error (with code 6); ERR is
cleared only by a STATUS write with bit 2 = 1, by an accept, or by a reset, each of which clears ERRCODE in the same event; a
successful completion leaves both at 0. -/
def Obligations.ErrFollowsErrorCompletion : Prop :=
  ∀ s t, step s = .next t →
    (s.err = false → t.err = true →
      t.done = true ∧ ((Rule.engineRuns s ∧ t.errcode = 6#4) ∨ ∃ e, Rule.refusesIssue s e ∧ t.errcode = e.code)) ∧
    (s.err = true → t.err = false → Rule.clearsStatusBit s 2 ∨ Rule.accepts s ∨ Rule.isReset s) ∧
    (Rule.clearsStatusBit s 2 ∨ Rule.accepts s ∨ Rule.isReset s → t.err = false ∧ t.errcode = 0#4) ∧
    (∀ e, Rule.refusesIssue s e → t.err = true ∧ t.errcode = e.code) ∧
    (∀ r a, s.Inv → s.turn = .engine a → s.engine = .busy r → t.busy = false →
      if a = .served ∧ s.params.admits r.shadow.start r.shadow.stop = true then t.err = false ∧ t.errcode = 0#4
      else t.err = true ∧ t.errcode = 6#4)

/-- R36: OVR is set only by a CMD write while BUSY; it is sticky, cleared only by a STATUS write with bit 3 = 1 and by
reset. -/
def Obligations.OverrunIsSticky : Prop :=
  ∀ s t, step s = .next t →
    (s.ovr = false → t.ovr = true → s.busy = true ∧ ∃ w, Rule.writesCmd s w) ∧
    (s.busy = true → (∃ w, Rule.writesCmd s w) → t.ovr = true) ∧
    (s.ovr = true → t.ovr = false → Rule.clearsStatusBit s 3 ∨ Rule.isReset s) ∧
    (Rule.clearsStatusBit s 3 ∨ Rule.isReset s → t.ovr = false)

/-- R210: `irq = IE AND DONE`; what raises it, drops it and masks it; it reaches the platform's input IRQ_LINE and no other. -/
def Obligations.InterruptFollowsEnableAndDone : Prop :=
  ∀ s : State,
    s.irq = (s.ie && s.done) ∧
    (∀ e, (s.completeWithError e).irq = s.ie) ∧
    (∀ r out, (s.complete r out).irq = s.ie) ∧
    s.setOverrun.irq = s.irq ∧
    (∀ d : Word, d.getLsbD 1 = true → (s.writeStatus d).irq = false) ∧
    (∀ w build, (s.accept w build).irq = false) ∧
    s.resetBlock.irq = false ∧
    (∀ d : Word, d.getLsbD 0 = false → d.getLsbD 1 = false →
      (s.writeCtrl d).irq = false ∧ (s.writeCtrl d).done = s.done) ∧
    (∀ line, s.interruptInput line = true ↔ line = s.params.irqLine ∧ s.irq = true)

/-! ### Completion -/

/-- GAUSS5 completes: O(x, y, c) is the 5×5 binomial sum of the snapshot with clamp-to-edge, shifted right by 8; alpha and
every byte outside the region are unchanged; IDLE and DONE; nothing else changes. -/
def Obligations.Gauss5WritesTheBlurredImage : Prop :=
  ∀ s r, Rule.MayComplete 1#2 s r →
    ∃ t, exec .gauss5 s = .next t ∧ Rule.completionFrame s t ∧ Rule.keepsOthers r s t ∧ Rule.alphaPasses r t ∧
      ∀ x y c, x < r.shadow.width.toNat → y < r.shadow.height.toNat →
        (t.mem.read (r.shadow.addr x y c)).toNat = Rule.gauss r.image x y c

/-- HISTEQ completes: O(x, y, c) is lut[luma] for each of the three channels, with the tables that accept built from the
snapshot (log 8); alpha and every byte outside the region are unchanged; IDLE and DONE; nothing else changes. -/
def Obligations.HisteqWritesTheEqualizedImage : Prop :=
  ∀ s r, Rule.MayComplete 2#2 s r → r.tables = histeqTables r.image →
    ∃ t, exec .histeq s = .next t ∧ Rule.completionFrame s t ∧ Rule.keepsOthers r s t ∧ Rule.alphaPasses r t ∧
      ∀ x y c i0, x < r.shadow.width.toNat → y < r.shadow.height.toNat → Rule.leastLuma r.image i0 →
        (t.mem.read (r.shadow.addr x y c)).toNat = Rule.equalized r.image i0 (Rule.lumaAt r.image x y)

/-- SOBEL completes: O(x, y, c) is the clamped gradient magnitude for each of the three channels, 0 on the border, with the
gray table that accept built from the snapshot (log 8); alpha and every byte outside the region are unchanged; IDLE and
DONE; nothing else changes. -/
def Obligations.SobelWritesTheEdgeMap : Prop :=
  ∀ s r, Rule.MayComplete 3#2 s r → r.tables = sobelTables r.image →
    ∃ t, exec .sobel s = .next t ∧ Rule.completionFrame s t ∧ Rule.keepsOthers r s t ∧ Rule.alphaPasses r t ∧
      ∀ x y c, x < r.shadow.width.toNat → y < r.shadow.height.toNat →
        (t.mem.read (r.shadow.addr x y c)).toNat = Rule.magnitude r.image x y

/-- R108: successful completion of any command writes F[sh_op] of the snapshot to every R, G and B byte of the region, makes
the engine IDLE and sets DONE; ERR and ERRCODE stay. -/
def Obligations.SuccessfulCompletionWritesEveryOutput : Prop :=
  ∀ i s r, Rule.MayComplete (opOf i) s r →
    ∃ t, exec i s = .next t ∧ Rule.completionFrame s t ∧ Rule.keepsOthers r s t ∧ Rule.alphaPasses r t ∧
      ∀ x y c, x < r.shadow.width.toNat → y < r.shadow.height.toNat →
        t.mem.read (r.shadow.addr x y c) = (outputOf i r.image r.tables x y).channel c

/-- R202: an error response to an access of the command, memory's own or MEM_FAULT_RESPONSE's, completes with code 6, the
region's R, G and B bytes any value (log 6), every other byte unchanged; an access that is never answered leaves the engine
BUSY with the access noted; once one is noted no answer ends the command. That one engine turn stands for all of a command's
accesses, and where memory's own answers come from, is the model's choice: logs 9 and 12. -/
def Obligations.BusErrorLosesTheRegion : Prop :=
  ∀ i s r a, s.turn = .engine a → s.engine = .busy r → r.shadow.op = opOf i → r.shadow.stop ≤ 2 ^ 32 →
    s.mem.wf = true →
    (r.unanswered = false → Rule.getsError s.params r.shadow a →
      ∃ t, exec i s = .next t ∧
        t = { s with engine := .idle, done := true, err := true, errcode := 6#4, mem := t.mem,
                     freeDraws := s.freeDraws + 3 * r.shadow.pixelCount } ∧
        Rule.keepsOthers r s t ∧ Rule.coloursFree r.shadow s t) ∧
    (r.unanswered = false → Rule.neverAnswered s.params r.shadow a →
      exec i s = .next { s with engine := .busy { r with unanswered := true } }) ∧
    (r.unanswered = true → exec i s = .next s)

/-- R202: only a reset ends a command of whose accesses one is never answered, whatever memory answers later; and where
MEM_FAULT_RESPONSE is HANG a command whose region memory does not wholly admit completes, if no error response of the
admitted part ends it, by no step. -/
def Obligations.OnlyResetEndsAStuckCommand : Prop :=
  ∀ s t r, s.engine = .busy r → ¬ Rule.isReset s → step s = .next t →
    (r.unanswered = true →
      ∃ r', t.engine = .busy r' ∧ r'.shadow = r.shadow ∧ r'.unanswered = true ∧ t.params = s.params ∧
        (t.done = true → s.done = true) ∧ (t.err = true → s.err = true)) ∧
    (s.params.admits r.shadow.start r.shadow.stop = false → s.params.memFault = .hang →
      (s.turn ≠ .engine .error ∨ s.params.admitsSome r.shadow = false) →
      ∃ r', t.engine = .busy r' ∧ r'.shadow = r.shadow ∧ t.params = s.params ∧ (t.done = true → s.done = true))

/-- R12, R55: the outputs of a command depend on nothing but the command, S, W and H: two states with any other registers,
memory, base address and history give the same bytes. -/
def Obligations.OutputsDependOnlyOnSnapshotAndSize : Prop :=
  ∀ i s s' r r', Rule.MayComplete (opOf i) s r → Rule.MayComplete (opOf i) s' r' →
    r.tables = tablesOf i r.image → r'.tables = tablesOf i r'.image →
    r.snapshot = r'.snapshot → r.shadow.width = r'.shadow.width → r.shadow.height = r'.shadow.height →
    ∃ t t', exec i s = .next t ∧ exec i s' = .next t' ∧
      ∀ x y c, x < r.shadow.width.toNat → y < r.shadow.height.toNat →
        t.mem.read (r.shadow.addr x y c) = t'.mem.read (r'.shadow.addr x y c)

/-- R38, R244: BASE, WIDTH and HEIGHT rewritten while a command runs do not affect it. -/
def Obligations.RunningCommandIgnoresRewrittenRegisters : Prop :=
  ∀ i s a b w h, s.turn = .engine a →
    exec i { s with base := b, width := w, height := h } =
      mapNext (fun t => { t with base := b, width := w, height := h }) (exec i s)

/-- The command's whole life from memory to memory: a CMD write that is accepted, and then the engine's turn, leave every R,
G and B byte of the region at the value the command's rule gives for the bytes that were there before. That the engine's turn
follows the host's is the model's choice where nothing is scheduled: log 1. -/
def Obligations.CommandTransformsItsRegion : Prop :=
  ∀ i s rest, Rule.hostDoes s (.regWrite 0x0C#6 4 (encode i)) rest → s.later = [] → s.engine = .idle →
    issueCheck s.params (encode i) s.base s.width s.height = none →
    s.mem.wf = true →
    (let lo := s.base.toNat
     let n := s.width.toNat * s.height.toNat
     let img : Image := ⟨s.width.toNat, s.height.toNat, s.mem.readPixels lo n⟩
     s.params.launchAllowed lo (lo + 4 * n) = true → s.params.admits lo (lo + 4 * n) = true →
     ∃ t, Host.Core.run Sys2Proof.core 2 s = .next t ∧
       t = { s with done := true, err := false, errcode := 0#4, mem := t.mem, hostOps := rest } ∧
       (∀ x y c, x < s.width.toNat → y < s.height.toNat →
         t.mem.read (lo + 4 * (y * s.width.toNat + x) + Colour.offset c) =
           (outputOf i img (tablesOf i img) x y).channel c) ∧
       (∀ x y, x < s.width.toNat → y < s.height.toNat →
         t.mem.read (lo + 4 * (y * s.width.toNat + x) + 3) = s.mem.read (lo + 4 * (y * s.width.toNat + x) + 3)) ∧
       (∀ a, a < lo ∨ lo + 4 * n ≤ a → t.mem.read a = s.mem.read a))

/-- R107: while memory answers, and has answered, a running command completes at the engine's next turn, with DONE; and after a host's turn,
where nothing else is scheduled, the engine's turn is next (the model's choice: log 1). -/
def Obligations.RunningCommandCompletes : Prop :=
  (∀ s r, s.Inv → s.turn = .engine .served → s.engine = .busy r →
    s.params.admits r.shadow.start r.shadow.stop = true → r.unanswered = false →
    ∃ t, step s = .next t ∧ t.busy = false ∧ t.done = true ∧ t.err = false) ∧
  (∀ s t, s.turn = .host → s.later = [] → step s = .next t → t.turn = .engine .served ∧ t.later = [])

/-! ### Memory and races -/

/-- R57: a command changes memory only on the engine's turn and only at R, G and B bytes of its region. -/
def Obligations.CommandWritesOnlyColourBytes : Prop :=
  ∀ i s t, exec i s = .next t →
    ((∀ a, s.turn ≠ .engine a) → t.mem = s.mem) ∧
    (s.engine = .idle → t.mem = s.mem) ∧
    (∀ r, s.engine = .busy r → Rule.keepsOthers r s t)

/-- Over every step: a byte of memory changes only because the host writes it, or as an R, G or B byte of a running
command's region on the engine's turn or by a reset. -/
def Obligations.OnlyHostAndEngineChangeMemory : Prop :=
  ∀ s t a, step s = .next t → t.mem.read a ≠ s.mem.read a →
    (∃ (p : Word) (v : Byte) (rest : List HostOp), Rule.hostDoes s (.memWrite p v) rest ∧ p.toNat = a) ∨
    (∃ r, s.engine = .busy r ∧ r.shadow.isColour a = true ∧ ((∃ b, s.turn = .engine b) ∨ Rule.isReset s))

/-- R61 (a), (c): a host read of an R, G or B byte of the running command's region returns a free value; of any other byte of
memory, memory's current value; and every byte of a running region is memory, also where memory admits no access of the
engine (log 20), so that no access of it is refused. The draw is the model's form of "any value": log 6. -/
def Obligations.HostReadOfARunningRegionIsFree : Prop :=
  (∀ s (p : Word) rest, Rule.hostDoes s (.memRead p) rest → s.params.isMemory p.toNat = true →
    (∀ r, s.engine = .busy r → r.shadow.isColour p.toNat = true →
      Rule.answers s { s with memReadData := Config.freeByte s.freeDraws, freeDraws := s.freeDraws + 1 } rest) ∧
    ((∀ r, s.engine = .busy r → r.shadow.isColour p.toNat = false) →
      Rule.answers s { s with memReadData := s.mem.read p.toNat } rest)) ∧
  (∀ (s : State) r a, s.Inv → s.engine = .busy r → r.shadow.covers a = true → s.params.isMemory a = true)

/-- R61 (b): a host write to a byte of the running command's region is noted, and at completion every R, G and B byte of the
region is a free value (log 6) while every other byte, alpha among them, holds what it held; a host write elsewhere only
writes. The note of a race is the model's own: log 14. -/
def Obligations.HostWriteOfARunningRegionLosesIt : Prop :=
  (∀ s (p : Word) v rest, Rule.hostDoes s (.memWrite p v) rest → s.params.isMemory p.toNat = true →
    s.mem.wf = true →
    ∃ t, step s = .next t ∧ t.mem.read p.toNat = v ∧ (∀ a, a ≠ p.toNat → t.mem.read a = s.mem.read a) ∧
      (s.engine = .idle → t.engine = .idle) ∧
      (∀ r, s.engine = .busy r → t.engine = .busy { r with hostWrote := r.hostWrote || r.shadow.covers p.toNat })) ∧
  (∀ i s r, s.turn = .engine .served → s.engine = .busy r → r.shadow.op = opOf i → r.shadow.stop ≤ 2 ^ 32 →
    s.params.admits r.shadow.start r.shadow.stop = true → r.unanswered = false → s.mem.wf = true →
    r.hostWrote = true →
    ∃ t, exec i s = .next t ∧ t.engine = .idle ∧ t.done = true ∧ t.err = s.err ∧ t.errcode = s.errcode ∧
      Rule.keepsOthers r s t ∧ Rule.coloursFree r.shadow s t)

/-- R241 (c): a host that keeps off the running command's region never makes a race (a note of the model's: log 14). -/
def Obligations.DisciplinedHostNeverRaces : Prop :=
  ∀ s t, s.noRace → s.hostDisciplined → step s = .next t → t.noRace

/-! ### Reset -/

/-- R44: what hardware reset and soft reset leave, and the machine's reset state. -/
def Obligations.ResetLeavesTheResetValues : Prop :=
  (∀ s, s.turn = .resetPin → ∃ t, step s = .next t ∧ Rule.resetFrame s t ∧ Rule.resetMemory s t ∧
    t.hostOps = s.hostOps ∧ t.irq = false ∧ t.statusWord = 0#32 ∧ t.ctrlWord = 0#32) ∧
  (∀ s d rest, Rule.hostDoes s (.regWrite 0x04#6 4 d) rest → d.getLsbD 1 = true →
    ∃ t, step s = .next t ∧ Rule.resetFrame s t ∧ Rule.resetMemory s t ∧
      t.hostOps = rest ∧ t.irq = false ∧ t.statusWord = 0#32 ∧ t.ctrlWord = 0#32) ∧
  (State.reset.readReg .id = 0x4B490007#32 ∧ State.reset.ctrlWord = 0#32 ∧ State.reset.statusWord = 0#32 ∧
    State.reset.base = 0#32 ∧ State.reset.width = 0#16 ∧ State.reset.height = 0#16 ∧ State.reset.engine = .idle ∧
    State.reset.irq = false ∧
    State.reset.readReg .caps = State.reset.params.maxHeight ++ State.reset.params.maxWidth)

/-- R231: a reset while BUSY ends the command with no completion, its region's R, G and B bytes are any value (log 6), and the
engine then does nothing on its turns. -/
def Obligations.ResetWhileBusyIsNoCompletion : Prop :=
  ∀ s r, s.turn = .resetPin → s.engine = .busy r → s.mem.wf = true →
    ∃ t, step s = .next t ∧ t.done = false ∧ t.irq = false ∧ t.engine = .idle ∧
      Rule.keepsOthers r s t ∧ Rule.coloursFree r.shadow s t ∧
      ∀ a, step { t with turn := .engine a } = .next (State.endTurn { t with turn := .engine a })

/-- R232: a soft reset performs, within the write, the same reset as the pin; afterwards CTRL reads 0. That both draw the same
free values is the model's: log 6. -/
def Obligations.SoftResetIsTheHardwareReset : Prop :=
  ∀ s d rest, Rule.hostDoes s (.regWrite 0x04#6 4 d) rest → d.getLsbD 1 = true →
    ∃ t u, step s = .next t ∧ step { s with turn := .resetPin } = .next u ∧
      t = { u with hostOps := rest, turn := t.turn } ∧ t.readReg .ctrl = 0#32

/-- R230: a command written right after reset is refused with code 2, ZERO_DIM, for each command. -/
def Obligations.FirstCommandAfterResetIsZeroDim : Prop :=
  ∀ i, ∃ t, step (State.reset.withFetchWord 32 (encode i).toNat) = .next t ∧ t.statusWord = 0x00000206#32 ∧
    t.engine = .idle ∧ t.irq = false ∧ t.mem = State.reset.mem

/-! ### The arithmetic of the commands -/

/-- R9: `isqrt n` is the greatest m with m·m ≤ n. -/
def Obligations.IsqrtIsTheGreatestRoot : Prop :=
  ∀ n, isqrt n * isqrt n ≤ n ∧ ∀ m, m * m ≤ n → m ≤ isqrt n

/-- R121: the clamp of luma never acts on channel values, and gray maps to itself. -/
def Obligations.LumaClampNeverActs : Prop :=
  (∀ r g b, r ≤ 255 → g ≤ 255 → b ≤ 255 →
    luma r g b = (299 * r + 587 * g + 114 * b + 500) / 1000 ∧ luma r g b ≤ 255) ∧
  (∀ v, v ≤ 255 → luma v v v = v) ∧ luma 0 0 250 = 29

/-- R130: the 25 weights, their sum, and their symmetries. -/
def Obligations.GaussWeightsAreTheBinomialTable : Prop :=
  (∀ ky kx, ky < 5 → kx < 5 →
    gaussWeight ky kx = (Rule.gaussKernel.getD ky []).getD kx 0 ∧ gaussWeight ky kx = gaussWeight kx ky ∧
    gaussWeight ky kx = gaussWeight (4 - ky) kx) ∧
  (footprintSum 5 gaussWeight = 256) ∧ gaussWeight 2 2 = 36

/-- R134: on an image whose channel has one value everywhere, GAUSS5 gives exactly that value everywhere. -/
def Obligations.GaussKeepsAFlatChannel : Prop :=
  ∀ img c v, 0 < img.width → 0 < img.height →
    (∀ x y, x < img.width → y < img.height → (img.pixelAt x y).channel c = v) →
    ∀ x y, x < img.width → y < img.height → gaussChannel img x y c = v

/-- R133: the channels are independent lanes, and a pixel reaches only the outputs whose 5×5 footprint, clamped, holds it. -/
def Obligations.GaussLanesAndFootprint : Prop :=
  ∀ (img img' : Image) (t : Tables) (c : Colour) (x y : Nat), img.width = img'.width → img.height = img'.height →
    (∀ kx ky : Nat, kx < 5 → ky < 5 →
      let u := clampCoord ((x : Int) + (kx : Int) - 2) img.width
      let v := clampCoord ((y : Int) + (ky : Int) - 2) img.height
      (img.pixelAt u v).channel c = (img'.pixelAt u v).channel c) →
    (gaussPixel img t x y).channel c = (gaussPixel img' t x y).channel c

/-- R123: every channel result is in 0..255 before it is written, so no result is reduced modulo 256. -/
def Obligations.NoResultIsReducedModulo256 : Prop :=
  ∀ (img : Image) (t : Tables) (x y : Nat),
    (∀ c, gaussChannel img x y c ≤ 255 ∧ ((gaussPixel img t x y).channel c).toNat = gaussChannel img x y c) ∧
    (∀ i, i ≤ 255 → lutEntry img i ((cumulative img).getD i 0) ≤ 255 ∧
      ((histeqTables img).lut.getD i 0#8).toNat = lutEntry img i ((cumulative img).getD i 0)) ∧
    (sobelMagnitude img t x y ≤ 255 ∧ ∀ c, ((sobelPixel img t x y).channel c).toNat = sobelMagnitude img t x y)

/-- R140, R141: hist[i] counts the pixels of luma i, each pixel once; the cdf is its running sum, non-decreasing, and ends at
N; on an image that issue accepts, no 32-bit entry wraps. -/
def Obligations.HistogramAndCdfCountEveryPixel : Prop :=
  ∀ img : Image, img.pixels.length = img.pixelCount →
    (∀ i, i < 256 → (histogram img).getD i 0 = img.pixels.countP (fun p => p.luma == i)) ∧
    (histogram img).sum = img.pixelCount ∧ (histogram img).length = 256 ∧ (cumulative img).length = 256 ∧
    (cumulative img).getD 0 0 = (histogram img).getD 0 0 ∧
    (∀ i, 1 ≤ i → i < 256 → (cumulative img).getD i 0 = (cumulative img).getD (i - 1) 0 + (histogram img).getD i 0) ∧
    (∀ i j, i ≤ j → j < 256 → (cumulative img).getD i 0 ≤ (cumulative img).getD j 0) ∧
    (cumulative img).getD 255 0 = img.pixelCount ∧
    (img.pixelCount ≤ 2 ^ 30 →
      (histeqTables img).hist.map BitVec.toNat = histogram img ∧
      (histeqTables img).cdf.map BitVec.toNat = cumulative img ∧
      (histeqTables img).cdfMin.toNat = cdfMinimum img)

/-- R142: cdfMin is cdf[i0] = hist[i0] at the least luma present; it exists whenever the image has a pixel. -/
def Obligations.CdfMinIsTheCountOfTheLeastLuma : Prop :=
  ∀ img : Image,
    (∀ i0, i0 < 256 → 0 < (histogram img).getD i0 0 → (∀ j, j < i0 → (histogram img).getD j 0 = 0) →
      cdfMinimum img = (histogram img).getD i0 0 ∧ cdfMinimum img = (cumulative img).getD i0 0) ∧
    (img.pixels ≠ [] → ∃ i0, i0 < 256 ∧ 0 < (histogram img).getD i0 0 ∧ ∀ j, j < i0 → (histogram img).getD j 0 = 0)

/-- R143: where D = N − cdfMin > 0, with i0 the least luma present and cdfMin = hist[i0] (R142): lut[i] is 0 below i0, else
`(510·(cdf[i] − cdfMin) + D) div (2·D)`, which needs no clamp; the table is non-decreasing, 0 at i0, and 255 from the greatest
luma present on. -/
def Obligations.LookupTableStretchesToTheFullRange : Prop :=
  ∀ (img : Image) (i0 : Nat), img.pixels.length = img.pixelCount → i0 < 256 → 0 < (histogram img).getD i0 0 →
    (∀ j, j < i0 → (histogram img).getD j 0 = 0) → 0 < img.pixelCount - (histogram img).getD i0 0 →
    let cdfMin := (histogram img).getD i0 0
    let d := img.pixelCount - cdfMin
    (∀ i, i < 256 → ((cumulative img).getD i 0 < cdfMin ↔ i < i0)) ∧
    (∀ i, i < i0 → (lookupTable img).getD i 0 = 0) ∧
    (∀ i, i0 ≤ i → i < 256 →
      (lookupTable img).getD i 0 = (510 * ((cumulative img).getD i 0 - cdfMin) + d) / (2 * d) ∧
        (510 * ((cumulative img).getD i 0 - cdfMin) + d) / (2 * d) ≤ 255) ∧
    (∀ i j, i ≤ j → j < 256 → (lookupTable img).getD i 0 ≤ (lookupTable img).getD j 0) ∧
    (lookupTable img).getD i0 0 = 0 ∧
    (∀ i, i < 256 → (cumulative img).getD i 0 = img.pixelCount → (lookupTable img).getD i 0 = 255)

/-- R144: D = 0 exactly when every pixel has the same luma, and then the lookup table is the identity. -/
def Obligations.FlatImageHasTheIdentityTable : Prop :=
  ∀ img : Image, img.pixels ≠ [] → img.pixels.length = img.pixelCount →
    (cdfRange img = 0 ↔ ∀ p ∈ img.pixels, ∀ q ∈ img.pixels, p.luma = q.luma) ∧
    (cdfRange img = 0 → ∀ i, i < 256 → (lookupTable img).getD i 0 = i)

/-- R163: on a flat image every magnitude is 0; on every image the border is 0. -/
def Obligations.SobelIsZeroOnFlatImagesAndBorders : Prop :=
  ∀ img : Image, img.pixels.length = img.pixelCount →
    (∀ g, (∀ x y, x < img.width → y < img.height → Rule.lumaAt img x y = g) →
      ∀ x y, x < img.width → y < img.height → sobelMagnitude img (sobelTables img) x y = 0) ∧
    (∀ x y, x = 0 ∨ x + 1 = img.width ∨ y = 0 ∨ y + 1 = img.height → sobelMagnitude img (sobelTables img) x y = 0) ∧
    (img.width < 3 ∨ img.height < 3 → ∀ x y, x < img.width → y < img.height →
      sobelMagnitude img (sobelTables img) x y = 0)

/-- R160, R162 (d), (e): the magnitude depends on the luma of the eight neighbours only; and neither Gx² + Gy² nor the
magnitude changes when SX or SY is negated, the two are swapped, or their indices are exchanged. -/
def Obligations.SobelReadsTheEightNeighboursOnly : Prop :=
  (∀ img img' x y, img.pixels.length = img.pixelCount → img'.pixels.length = img'.pixelCount →
    img.width = img'.width → img.height = img'.height → x < img.width → y < img.height →
    Rule.sameNeighbours img img' x y →
    sobelMagnitude img (sobelTables img) x y = sobelMagnitude img' (sobelTables img') x y) ∧
  (∀ img t x y kx ky, Rule.sobelOrientation kx ky →
    gradientSquared kx ky img t x y = gradientSquared sobelX sobelY img t x y ∧
    magnitudeOf kx ky img t x y = sobelMagnitude img t x y) ∧
  (∀ img t x y,
    sobelGradient (Rule.negated sobelX) img t x y = - sobelGradient sobelX img t x y ∧
    sobelGradient (Rule.negated sobelY) img t x y = - sobelGradient sobelY img t x y) ∧
  (∀ j i, j < 3 → i < 3 → kernelAt sobelY j i = - kernelAt sobelX i j)

/-! ### Invariants -/

/-- The invariant holds at reset. Reset's parameters and its memory are the model's: logs 3 and 5. -/
def Obligations.InvariantHoldsAtReset : Prop := State.reset.Inv

/-- Every step keeps the invariant: the parameters stay in range, memory stays canonical and inside its 2^32 bytes, ERRCODE
is 0 exactly while ERR is, a running command holds a checked shadow, a snapshot of its size, the tables of its rule, and
memory still shows the snapshot unless the host raced. -/
def Obligations.EveryStepKeepsTheInvariant : Prop := ∀ s t, s.Inv → step s = .next t → t.Inv

/-- Every step keeps memory in its canonical form, from every state whatever. -/
def Obligations.EveryStepKeepsMemoryCanonical : Prop := ∀ s t, s.mem.wf = true → step s = .next t → t.mem.wf = true

/-- From a good state no step faults, and where the host's transaction has a meaning the step goes on. -/
def Obligations.GoodMachineGoesOn : Prop :=
  ∀ s, s.Inv → (∀ f, step s ≠ .fault f) ∧ (s.hostDefined → ∃ t, step s = .next t)

/-- No step changes an OPEN parameter, so CAPS is constant; ID is constant too (R24, R31). -/
def Obligations.ParametersNeverChange : Prop :=
  ∀ s t, step s = .next t → t.params = s.params ∧ t.readReg .caps = s.readReg .caps ∧ t.readReg .id = 0x4B490007#32
end

