-- ==== Sys2Proof/Laws/Memory.lean ====
section
/-! SUPPORT. The laws of memory: a read after a write, the canonical form kept by every memory operation, and what the
engine's pixel accesses read and write. -/

namespace Sys2Proof.Machine

/-! ### One byte -/

@[simp] theorem Memory.read_nil (a : Nat) : Memory.read [] a = unlistedByte := rfl

theorem Memory.read_consCell_same (a : Nat) (v : Byte) (m : Memory) (h : Memory.read m a = unlistedByte) :
    Memory.read (Memory.consCell a v m) a = v := by
  unfold Memory.consCell
  split
  · simp_all
  · simp [Memory.read]

theorem Memory.read_consCell_other {a b : Nat} (v : Byte) (m : Memory) (h : b ≠ a) :
    Memory.read (Memory.consCell a v m) b = Memory.read m b := by
  unfold Memory.consCell
  split
  · rfl
  · simp [Memory.read, h]

/-- An address below every listed one reads as an unlisted byte. -/
theorem Memory.read_of_all_above (m : Memory) (a : Nat) (h : ∀ c ∈ m, a < c.1) : Memory.read m a = unlistedByte := by
  induction m with
  | nil => rfl
  | cons c m ih =>
    have hc := h c (by simp)
    simp only [Memory.read]
    rw [if_neg (by omega)]
    exact ih fun d hd => h d (by simp [hd])

theorem Memory.wf_cons (k : Nat) (v : Byte) (m : Memory) :
    Memory.wf ((k, v) :: m) = true ↔ v ≠ unlistedByte ∧ (∀ c ∈ m, k < c.1) ∧ Memory.wf m = true := by
  simp [Memory.wf, and_assoc]

/-- A write leaves every other address alone. -/
theorem Memory.read_write_other {a b : Nat} (m : Memory) (v : Byte) (h : b ≠ a) :
    Memory.read (Memory.write m a v) b = Memory.read m b := by
  induction m with
  | nil => simp [Memory.write, Memory.read_consCell_other v _ h]
  | cons c m ih =>
    obtain ⟨k, u⟩ := c
    simp only [Memory.write]
    split
    · exact Memory.read_consCell_other v _ h
    · split
      · next hk => rw [Memory.read_consCell_other v _ h]; simp [Memory.read, show b ≠ k from hk ▸ h]
      · simp only [Memory.read, ih]

/-- A read after a write of the same address gives the value written. -/
theorem Memory.read_write_same (m : Memory) (a : Nat) (v : Byte) (hm : Memory.wf m = true) :
    Memory.read (Memory.write m a v) a = v := by
  induction m with
  | nil => exact Memory.read_consCell_same a v [] rfl
  | cons c m ih =>
    obtain ⟨k, u⟩ := c
    obtain ⟨_, hk, hm'⟩ := (Memory.wf_cons k u m).1 hm
    simp only [Memory.write]
    split
    · next hlt =>
      refine Memory.read_consCell_same a v _ (Memory.read_of_all_above _ _ ?_)
      intro d hd
      rcases List.mem_cons.1 hd with rfl | hd
      · exact hlt
      · exact lt_trans hlt (hk d hd)
    · split
      · next hak => exact Memory.read_consCell_same a v m (Memory.read_of_all_above _ _ (hak ▸ hk))
      · next hne => simp only [Memory.read, if_neg hne]; exact ih hm'

/-- Every listed address of a memory after a write was listed before, or is the one written. -/
theorem Memory.mem_write {m : Memory} {a : Nat} {v : Byte} {c : Host.Cell} (h : c ∈ Memory.write m a v) :
    c = (a, v) ∨ c ∈ m := by
  induction m with
  | nil => simp only [Memory.write, Memory.consCell] at h; split at h <;> simp_all
  | cons d m ih =>
    obtain ⟨k, u⟩ := d
    simp only [Memory.write, Memory.consCell] at h
    split at h
    · split at h <;> simp_all
    · split at h
      · split at h
        · simp_all
        · rcases List.mem_cons.1 h with rfl | h <;> simp_all
      · rcases List.mem_cons.1 h with rfl | h
        · simp
        · rcases ih h with h | h <;> simp [h]

theorem Memory.wf_consCell (a : Nat) (v : Byte) (m : Memory) (hm : Memory.wf m = true) (ha : ∀ c ∈ m, a < c.1) :
    Memory.wf (Memory.consCell a v m) = true := by
  unfold Memory.consCell
  split
  · exact hm
  · next hv => exact (Memory.wf_cons a v m).2 ⟨hv, ha, hm⟩

/-- A write keeps the canonical form. -/
theorem Memory.wf_write (m : Memory) (a : Nat) (v : Byte) (hm : Memory.wf m = true) :
    Memory.wf (Memory.write m a v) = true := by
  induction m with
  | nil => exact Memory.wf_consCell a v [] rfl (by simp)
  | cons c m ih =>
    obtain ⟨k, u⟩ := c
    obtain ⟨hu, hk, hm'⟩ := (Memory.wf_cons k u m).1 hm
    simp only [Memory.write]
    split
    · next hlt =>
      refine Memory.wf_consCell a v _ hm fun d hd => ?_
      rcases List.mem_cons.1 hd with rfl | hd
      · exact hlt
      · exact lt_trans hlt (hk d hd)
    · split
      · next hak => exact Memory.wf_consCell a v m hm' (hak ▸ hk)
      · refine (Memory.wf_cons k u _).2 ⟨hu, fun d hd => ?_, ih hm'⟩
        rcases Memory.mem_write hd with rfl | hd
        · show k < a
          omega
        · exact hk d hd

theorem Memory.inSpace_iff (m : Memory) : Memory.inSpace m = true ↔ ∀ c ∈ m, c.1 < 2 ^ 32 := by
  simp [Memory.inSpace]

/-- A write inside memory space lists no address outside it. -/
theorem Memory.inSpace_write (m : Memory) (a : Nat) (v : Byte) (hm : Memory.inSpace m = true) (ha : a < 2 ^ 32) :
    Memory.inSpace (Memory.write m a v) = true := by
  rw [Memory.inSpace_iff] at *
  intro c hc
  rcases Memory.mem_write hc with rfl | hc
  · exact ha
  · exact hm c hc

/-- Two canonical memories that read alike everywhere are the same data. -/
theorem Memory.eq_of_read_eq (m n : Memory) (hm : Memory.wf m = true) (hn : Memory.wf n = true)
    (h : ∀ a, Memory.read m a = Memory.read n a) : m = n := by
  induction m generalizing n with
  | nil =>
    cases n with
    | nil => rfl
    | cons d n =>
      obtain ⟨l, w⟩ := d
      have := h l
      simp only [Memory.read, if_true] at this
      exact absurd this.symm ((Memory.wf_cons l w n).1 hn).1
  | cons c m ih =>
    obtain ⟨k, u⟩ := c
    obtain ⟨hu, hk, hm'⟩ := (Memory.wf_cons k u m).1 hm
    cases n with
    | nil =>
      have := h k
      simp only [Memory.read, if_true] at this
      exact absurd this hu
    | cons d n =>
      obtain ⟨l, w⟩ := d
      obtain ⟨hw, hl, hn'⟩ := (Memory.wf_cons l w n).1 hn
      have hkl : k = l := by
        rcases lt_trichotomy k l with hlt | heq | hlt
        · have := h k
          rw [Memory.read_of_all_above ((l, w) :: n) k (by
            intro e he
            rcases List.mem_cons.1 he with rfl | he
            · exact hlt
            · exact lt_trans hlt (hl e he))] at this
          simp only [Memory.read, if_true] at this
          exact absurd this hu
        · exact heq
        · have := h l
          rw [Memory.read_of_all_above ((k, u) :: m) l (by
            intro e he
            rcases List.mem_cons.1 he with rfl | he
            · exact hlt
            · exact lt_trans hlt (hk e he))] at this
          simp only [Memory.read, if_true] at this
          exact absurd this.symm hw
      subst hkl
      have huw : u = w := by simpa [Memory.read] using h k
      subst huw
      refine congrArg _ (ih n hm' hn' fun a => ?_)
      by_cases ha : a = k
      · subst ha
        rw [Memory.read_of_all_above m a hk, Memory.read_of_all_above n a hl]
      · simpa [Memory.read, ha] using h a

/-! ### The engine's accesses -/

/-- The bits of a 32-bit word given by its four bytes, the lowest last. -/
theorem getLsbD_fourBytes (p q u v : Byte) (i : Nat) :
    BitVec.getLsbD (w := 32) (p ++ q ++ u ++ v) i =
      if i < 8 then v.getLsbD i else if i - 8 < 8 then u.getLsbD (i - 8)
      else if i - 8 - 8 < 8 then q.getLsbD (i - 8 - 8) else p.getLsbD (i - 8 - 8 - 8) := by
  have h : BitVec.getLsbD (w := 8 + 8 + 8 + 8) (p ++ q ++ u ++ v) i =
      if i < 8 then v.getLsbD i else if i - 8 < 8 then u.getLsbD (i - 8)
      else if i - 8 - 8 < 8 then q.getLsbD (i - 8 - 8) else p.getLsbD (i - 8 - 8 - 8) := by
    rw [BitVec.getLsbD_append, BitVec.getLsbD_append, BitVec.getLsbD_append]
  exact h

/-- Byte lane 0 of a word is its lowest byte (R51). -/
theorem lane0_fourBytes (p q u v : Byte) : BitVec.extractLsb' (n := 32) 0 8 (p ++ q ++ u ++ v) = v := by
  apply BitVec.eq_of_getLsbD_eq
  intro i hi
  rw [BitVec.getLsbD_extractLsb', getLsbD_fourBytes]
  simp [hi]

/-- Byte lane 1 (R51). -/
theorem lane1_fourBytes (p q u v : Byte) : BitVec.extractLsb' (n := 32) 8 8 (p ++ q ++ u ++ v) = u := by
  apply BitVec.eq_of_getLsbD_eq
  intro i hi
  rw [BitVec.getLsbD_extractLsb', getLsbD_fourBytes]
  simp [hi]

/-- Byte lane 2 (R51). -/
theorem lane2_fourBytes (p q u v : Byte) : BitVec.extractLsb' (n := 32) 16 8 (p ++ q ++ u ++ v) = q := by
  apply BitVec.eq_of_getLsbD_eq
  intro i hi
  rw [BitVec.getLsbD_extractLsb', getLsbD_fourBytes, if_neg (by omega), if_neg (by omega), if_pos (by omega),
    show 16 + i - 8 - 8 = i by omega]
  simp [hi]

/-- Byte lane 3 (R51). -/
theorem lane3_fourBytes (p q u v : Byte) : BitVec.extractLsb' (n := 32) 24 8 (p ++ q ++ u ++ v) = p := by
  apply BitVec.eq_of_getLsbD_eq
  intro i hi
  rw [BitVec.getLsbD_extractLsb', getLsbD_fourBytes, if_neg (by omega), if_neg (by omega), if_neg (by omega),
    show 24 + i - 8 - 8 - 8 = i by omega]
  simp [hi]

/-- The engine's pixel write is three byte writes: R, G, B; alpha is not among them (R54 (b)). -/
theorem Memory.writePixel_eq (m : Memory) (a : Nat) (p : Rgb) :
    m.writePixel a p = ((m.write a p.r).write (a + 1) p.g).write (a + 2) p.b := by
  have e0 : (0b0111#4).getLsbD 0 = true := rfl
  have e1 : (0b0111#4).getLsbD 1 = true := rfl
  have e2 : (0b0111#4).getLsbD 2 = true := rfl
  have e3 : (0b0111#4).getLsbD 3 = false := rfl
  simp only [Memory.writePixel, Memory.write32, Memory.writeLane, e0, e1, e2, e3, if_true, Bool.false_eq_true,
    if_false, Nat.add_zero, Nat.mul_zero, Nat.mul_one, Nat.reduceMul, lane0_fourBytes, lane1_fourBytes,
    lane2_fourBytes]

/-- The engine's pixel read sees the four bytes that four byte reads see (R51). -/
theorem Memory.readPixel_eq (m : Memory) (a : Nat) :
    m.readPixel a = ⟨m.read a, m.read (a + 1), m.read (a + 2), m.read (a + 3)⟩ := by
  simp only [Memory.readPixel, Memory.read32, Pixel.ofWord, lane0_fourBytes, lane1_fourBytes, lane2_fourBytes,
    lane3_fourBytes]

theorem Memory.wf_writePixel (m : Memory) (a : Nat) (p : Rgb) (hm : Memory.wf m = true) :
    Memory.wf (m.writePixel a p) = true := by
  rw [Memory.writePixel_eq]
  exact Memory.wf_write _ _ _ (Memory.wf_write _ _ _ (Memory.wf_write _ _ _ hm))

/-- The engine's writes keep the canonical form. -/
theorem Memory.wf_writePixels (ps : List Rgb) (m : Memory) (a : Nat) (hm : Memory.wf m = true) :
    Memory.wf (m.writePixels a ps) = true := by
  induction ps generalizing m a with
  | nil => exact hm
  | cons p ps ih => exact ih _ _ (Memory.wf_writePixel m a p hm)

/-- The engine's writes stay in memory space where the pixels' addresses do. -/
theorem Memory.inSpace_writePixels (ps : List Rgb) (m : Memory) (a : Nat) (hm : Memory.inSpace m = true)
    (ha : a + 4 * ps.length ≤ 2 ^ 32) : Memory.inSpace (m.writePixels a ps) = true := by
  induction ps generalizing m a with
  | nil => exact hm
  | cons p ps ih =>
    rw [List.length_cons] at ha
    refine ih _ _ ?_ (by omega)
    rw [Memory.writePixel_eq]
    exact Memory.inSpace_write _ _ _ (Memory.inSpace_write _ _ _ (Memory.inSpace_write _ _ _ hm (by omega)) (by omega))
      (by omega)

theorem Memory.read_writePixel_other (m : Memory) (a b : Nat) (p : Rgb) (h : b < a ∨ a + 3 ≤ b) :
    (m.writePixel a p).read b = m.read b := by
  rw [Memory.writePixel_eq, Memory.read_write_other _ _ (by omega), Memory.read_write_other _ _ (by omega),
    Memory.read_write_other _ _ (by omega)]

theorem Memory.read_writePixel_same (m : Memory) (a : Nat) (p : Rgb) (c : Colour) (hm : Memory.wf m = true) :
    (m.writePixel a p).read (a + c.offset) = p.channel c := by
  rw [Memory.writePixel_eq]
  cases c with
  | red =>
    show Memory.read _ (a + 0) = p.r
    rw [Memory.read_write_other _ _ (by omega), Memory.read_write_other _ _ (by omega)]
    exact Memory.read_write_same _ _ _ hm
  | green =>
    show Memory.read _ (a + 1) = p.g
    rw [Memory.read_write_other _ _ (by omega)]
    exact Memory.read_write_same _ _ _ (Memory.wf_write _ _ _ hm)
  | blue =>
    exact Memory.read_write_same _ _ _ (Memory.wf_write _ _ _ (Memory.wf_write _ _ _ hm))

theorem Memory.read_writePixels_before (ps : List Rgb) (m : Memory) (a b : Nat) (h : b < a) :
    (m.writePixels a ps).read b = m.read b := by
  induction ps generalizing m a with
  | nil => rfl
  | cons p ps ih =>
    show ((m.writePixel a p).writePixels (a + 4) ps).read b = m.read b
    rw [ih _ _ (by omega), Memory.read_writePixel_other _ _ _ _ (Or.inl h)]

/-- The engine's writes leave alone every byte outside `[a, a + 4n)`, and every fourth byte inside (R57). -/
theorem Memory.read_writePixels_other (ps : List Rgb) (m : Memory) (a b : Nat)
    (h : b < a ∨ a + 4 * ps.length ≤ b ∨ (b - a) % 4 = 3) : (m.writePixels a ps).read b = m.read b := by
  induction ps generalizing m a with
  | nil => rfl
  | cons p ps ih =>
    show ((m.writePixel a p).writePixels (a + 4) ps).read b = m.read b
    rw [List.length_cons] at h
    by_cases hb : b < a + 4
    · rw [Memory.read_writePixels_before _ _ _ _ hb, Memory.read_writePixel_other _ _ _ _ (by omega)]
    · rw [ih _ _ (by omega), Memory.read_writePixel_other _ _ _ _ (by omega)]

/-- The engine's writes put pixel number k's channel c at its address (R50, R108). -/
theorem Memory.read_writePixels_same (ps : List Rgb) (m : Memory) (a k : Nat) (c : Colour) (hm : Memory.wf m = true)
    (hk : k < ps.length) : (m.writePixels a ps).read (a + 4 * k + c.offset) = (ps[k]).channel c := by
  have hc : c.offset < 3 := by cases c <;> decide
  induction ps generalizing m a k with
  | nil => simp at hk
  | cons p ps ih =>
    show ((m.writePixel a p).writePixels (a + 4) ps).read _ = _
    cases k with
    | zero =>
      rw [Memory.read_writePixels_before _ _ _ _ (by omega)]
      exact Memory.read_writePixel_same m a p c hm
    | succ k =>
      have := ih (m.writePixel a p) (a + 4) k (Memory.wf_writePixel m a p hm) (by simpa using hk)
      rw [show a + 4 * (k + 1) + c.offset = a + 4 + 4 * k + c.offset by omega, this]
      rfl

@[simp] theorem Memory.readPixels_length (m : Memory) (a n : Nat) : (m.readPixels a n).length = n := by
  induction n generalizing a with
  | zero => rfl
  | succ n ih => simp [Memory.readPixels, ih]

/-- Pixel number k of a snapshot is the pixel at its address (R50, R55). -/
theorem Memory.readPixels_getElem (m : Memory) (a n k : Nat) (hk : k < n) :
    (m.readPixels a n)[k]'(by simpa using hk) = m.readPixel (a + 4 * k) := by
  induction n generalizing a k with
  | zero => omega
  | succ n ih =>
    cases k with
    | zero => rfl
    | succ k =>
      simp only [Memory.readPixels, List.getElem_cons_succ]
      rw [ih (a + 4) k (by omega), show a + 4 + 4 * k = a + 4 * (k + 1) by omega]

@[simp] theorem freePixels_length (k n : Nat) : (freePixels k n).length = n := by
  induction n generalizing k with
  | zero => rfl
  | succ n ih => simp [freePixels, ih]

/-- The channels of the j-th free pixel are draws number k + 3j, k + 3j + 1 and k + 3j + 2. -/
theorem freePixels_channel (k n j : Nat) (c : Colour) (hj : j < n) :
    ((freePixels k n)[j]'(by simpa using hj)).channel c = Config.freeByte (k + 3 * j + c.offset) := by
  induction n generalizing k j with
  | zero => omega
  | succ n ih =>
    cases j with
    | zero => cases c <;> rfl
    | succ j =>
      simp only [freePixels, List.getElem_cons_succ]
      rw [ih (k + 3) j (by omega), show k + 3 + 3 * j + c.offset = k + 3 * (j + 1) + c.offset by omega]

@[simp] theorem outputPixels_length (img : Image) (out : Nat → Nat → Rgb) :
    (outputPixels img out).length = img.pixelCount := by
  simp [outputPixels]

/-- Output number y·W + x is the output of pixel (x, y) (R50, R108). -/
theorem outputPixels_getElem (img : Image) (out : Nat → Nat → Rgb) (x y : Nat) (hx : x < img.width)
    (h : y * img.width + x < (outputPixels img out).length) : (outputPixels img out)[y * img.width + x] = out x y := by
  have hmod : (y * img.width + x) % img.width = x := by
    rw [Nat.add_comm, Nat.add_mul_mod_self_right, Nat.mod_eq_of_lt hx]
  have hdiv : (y * img.width + x) / img.width = y := by
    rw [Nat.add_comm, Nat.add_mul_div_right _ _ (by omega), Nat.div_eq_of_lt hx, Nat.zero_add]
  simp [outputPixels, hmod, hdiv]

end Sys2Proof.Machine
end

