-- ==== Sys2Proof/Laws/State.lean ====
section
/-! SUPPORT. One lemma per field per update of the state, so that no proof unfolds a record update. -/

namespace Sys2Proof.Machine

/-! ### `State.clearReport` -/

@[simp] theorem State.clearReport_ie (s : State) : s.clearReport.ie = s.ie := rfl
@[simp] theorem State.clearReport_done (s : State) : s.clearReport.done = false := rfl
@[simp] theorem State.clearReport_err (s : State) : s.clearReport.err = false := rfl
@[simp] theorem State.clearReport_ovr (s : State) : s.clearReport.ovr = s.ovr := rfl
@[simp] theorem State.clearReport_errcode (s : State) : s.clearReport.errcode = 0#4 := rfl
@[simp] theorem State.clearReport_base (s : State) : s.clearReport.base = s.base := rfl
@[simp] theorem State.clearReport_width (s : State) : s.clearReport.width = s.width := rfl
@[simp] theorem State.clearReport_height (s : State) : s.clearReport.height = s.height := rfl
@[simp] theorem State.clearReport_engine (s : State) : s.clearReport.engine = s.engine := rfl
@[simp] theorem State.clearReport_mem (s : State) : s.clearReport.mem = s.mem := rfl
@[simp] theorem State.clearReport_hostOps (s : State) : s.clearReport.hostOps = s.hostOps := rfl
@[simp] theorem State.clearReport_turn (s : State) : s.clearReport.turn = s.turn := rfl
@[simp] theorem State.clearReport_later (s : State) : s.clearReport.later = s.later := rfl
@[simp] theorem State.clearReport_regReadData (s : State) : s.clearReport.regReadData = s.regReadData := rfl
@[simp] theorem State.clearReport_memReadData (s : State) : s.clearReport.memReadData = s.memReadData := rfl
@[simp] theorem State.clearReport_freeDraws (s : State) : s.clearReport.freeDraws = s.freeDraws := rfl
@[simp] theorem State.clearReport_params (s : State) : s.clearReport.params = s.params := rfl

/-! ### `State.setOverrun` -/

@[simp] theorem State.setOverrun_ie (s : State) : s.setOverrun.ie = s.ie := rfl
@[simp] theorem State.setOverrun_done (s : State) : s.setOverrun.done = s.done := rfl
@[simp] theorem State.setOverrun_err (s : State) : s.setOverrun.err = s.err := rfl
@[simp] theorem State.setOverrun_ovr (s : State) : s.setOverrun.ovr = true := rfl
@[simp] theorem State.setOverrun_errcode (s : State) : s.setOverrun.errcode = s.errcode := rfl
@[simp] theorem State.setOverrun_base (s : State) : s.setOverrun.base = s.base := rfl
@[simp] theorem State.setOverrun_width (s : State) : s.setOverrun.width = s.width := rfl
@[simp] theorem State.setOverrun_height (s : State) : s.setOverrun.height = s.height := rfl
@[simp] theorem State.setOverrun_engine (s : State) : s.setOverrun.engine = s.engine := rfl
@[simp] theorem State.setOverrun_mem (s : State) : s.setOverrun.mem = s.mem := rfl
@[simp] theorem State.setOverrun_hostOps (s : State) : s.setOverrun.hostOps = s.hostOps := rfl
@[simp] theorem State.setOverrun_turn (s : State) : s.setOverrun.turn = s.turn := rfl
@[simp] theorem State.setOverrun_later (s : State) : s.setOverrun.later = s.later := rfl
@[simp] theorem State.setOverrun_regReadData (s : State) : s.setOverrun.regReadData = s.regReadData := rfl
@[simp] theorem State.setOverrun_memReadData (s : State) : s.setOverrun.memReadData = s.memReadData := rfl
@[simp] theorem State.setOverrun_freeDraws (s : State) : s.setOverrun.freeDraws = s.freeDraws := rfl
@[simp] theorem State.setOverrun_params (s : State) : s.setOverrun.params = s.params := rfl

/-! ### `State.completeWithError` -/

@[simp] theorem State.completeWithError_ie (s : State) (e : ErrorCode) : (s.completeWithError e).ie = s.ie := rfl
@[simp] theorem State.completeWithError_done (s : State) (e : ErrorCode) : (s.completeWithError e).done = true := rfl
@[simp] theorem State.completeWithError_err (s : State) (e : ErrorCode) : (s.completeWithError e).err = true := rfl
@[simp] theorem State.completeWithError_ovr (s : State) (e : ErrorCode) : (s.completeWithError e).ovr = s.ovr := rfl
@[simp] theorem State.completeWithError_errcode (s : State) (e : ErrorCode) :
    (s.completeWithError e).errcode = e.code := rfl
@[simp] theorem State.completeWithError_base (s : State) (e : ErrorCode) : (s.completeWithError e).base = s.base := rfl
@[simp] theorem State.completeWithError_width (s : State) (e : ErrorCode) :
    (s.completeWithError e).width = s.width := rfl
@[simp] theorem State.completeWithError_height (s : State) (e : ErrorCode) :
    (s.completeWithError e).height = s.height := rfl
@[simp] theorem State.completeWithError_engine (s : State) (e : ErrorCode) :
    (s.completeWithError e).engine = .idle := rfl
@[simp] theorem State.completeWithError_mem (s : State) (e : ErrorCode) : (s.completeWithError e).mem = s.mem := rfl
@[simp] theorem State.completeWithError_hostOps (s : State) (e : ErrorCode) :
    (s.completeWithError e).hostOps = s.hostOps := rfl
@[simp] theorem State.completeWithError_turn (s : State) (e : ErrorCode) : (s.completeWithError e).turn = s.turn := rfl
@[simp] theorem State.completeWithError_later (s : State) (e : ErrorCode) :
    (s.completeWithError e).later = s.later := rfl
@[simp] theorem State.completeWithError_regReadData (s : State) (e : ErrorCode) :
    (s.completeWithError e).regReadData = s.regReadData := rfl
@[simp] theorem State.completeWithError_memReadData (s : State) (e : ErrorCode) :
    (s.completeWithError e).memReadData = s.memReadData := rfl
@[simp] theorem State.completeWithError_freeDraws (s : State) (e : ErrorCode) :
    (s.completeWithError e).freeDraws = s.freeDraws := rfl
@[simp] theorem State.completeWithError_params (s : State) (e : ErrorCode) :
    (s.completeWithError e).params = s.params := rfl

/-! ### `State.completeOk` -/

@[simp] theorem State.completeOk_ie (s : State) : s.completeOk.ie = s.ie := rfl
@[simp] theorem State.completeOk_done (s : State) : s.completeOk.done = true := rfl
@[simp] theorem State.completeOk_err (s : State) : s.completeOk.err = s.err := rfl
@[simp] theorem State.completeOk_ovr (s : State) : s.completeOk.ovr = s.ovr := rfl
@[simp] theorem State.completeOk_errcode (s : State) : s.completeOk.errcode = s.errcode := rfl
@[simp] theorem State.completeOk_base (s : State) : s.completeOk.base = s.base := rfl
@[simp] theorem State.completeOk_width (s : State) : s.completeOk.width = s.width := rfl
@[simp] theorem State.completeOk_height (s : State) : s.completeOk.height = s.height := rfl
@[simp] theorem State.completeOk_engine (s : State) : s.completeOk.engine = .idle := rfl
@[simp] theorem State.completeOk_mem (s : State) : s.completeOk.mem = s.mem := rfl
@[simp] theorem State.completeOk_hostOps (s : State) : s.completeOk.hostOps = s.hostOps := rfl
@[simp] theorem State.completeOk_turn (s : State) : s.completeOk.turn = s.turn := rfl
@[simp] theorem State.completeOk_later (s : State) : s.completeOk.later = s.later := rfl
@[simp] theorem State.completeOk_regReadData (s : State) : s.completeOk.regReadData = s.regReadData := rfl
@[simp] theorem State.completeOk_memReadData (s : State) : s.completeOk.memReadData = s.memReadData := rfl
@[simp] theorem State.completeOk_freeDraws (s : State) : s.completeOk.freeDraws = s.freeDraws := rfl
@[simp] theorem State.completeOk_params (s : State) : s.completeOk.params = s.params := rfl

/-! ### `State.writeStatus` -/

@[simp] theorem State.writeStatus_ie (s : State) (d : Word) : (s.writeStatus d).ie = s.ie := rfl
@[simp] theorem State.writeStatus_done (s : State) (d : Word) : (s.writeStatus d).done = (s.done && !d.getLsbD 1) := rfl
@[simp] theorem State.writeStatus_err (s : State) (d : Word) : (s.writeStatus d).err = (s.err && !d.getLsbD 2) := rfl
@[simp] theorem State.writeStatus_ovr (s : State) (d : Word) : (s.writeStatus d).ovr = (s.ovr && !d.getLsbD 3) := rfl
@[simp] theorem State.writeStatus_errcode (s : State) (d : Word) :
    (s.writeStatus d).errcode = (if d.getLsbD 2 then 0#4 else s.errcode) := rfl
@[simp] theorem State.writeStatus_base (s : State) (d : Word) : (s.writeStatus d).base = s.base := rfl
@[simp] theorem State.writeStatus_width (s : State) (d : Word) : (s.writeStatus d).width = s.width := rfl
@[simp] theorem State.writeStatus_height (s : State) (d : Word) : (s.writeStatus d).height = s.height := rfl
@[simp] theorem State.writeStatus_engine (s : State) (d : Word) : (s.writeStatus d).engine = s.engine := rfl
@[simp] theorem State.writeStatus_mem (s : State) (d : Word) : (s.writeStatus d).mem = s.mem := rfl
@[simp] theorem State.writeStatus_hostOps (s : State) (d : Word) : (s.writeStatus d).hostOps = s.hostOps := rfl
@[simp] theorem State.writeStatus_turn (s : State) (d : Word) : (s.writeStatus d).turn = s.turn := rfl
@[simp] theorem State.writeStatus_later (s : State) (d : Word) : (s.writeStatus d).later = s.later := rfl
@[simp] theorem State.writeStatus_regReadData (s : State) (d : Word) :
    (s.writeStatus d).regReadData = s.regReadData := rfl
@[simp] theorem State.writeStatus_memReadData (s : State) (d : Word) :
    (s.writeStatus d).memReadData = s.memReadData := rfl
@[simp] theorem State.writeStatus_freeDraws (s : State) (d : Word) : (s.writeStatus d).freeDraws = s.freeDraws := rfl
@[simp] theorem State.writeStatus_params (s : State) (d : Word) : (s.writeStatus d).params = s.params := rfl

/-! ### `State.resetRegisters` -/

@[simp] theorem State.resetRegisters_ie (s : State) : s.resetRegisters.ie = false := rfl
@[simp] theorem State.resetRegisters_done (s : State) : s.resetRegisters.done = false := rfl
@[simp] theorem State.resetRegisters_err (s : State) : s.resetRegisters.err = false := rfl
@[simp] theorem State.resetRegisters_ovr (s : State) : s.resetRegisters.ovr = false := rfl
@[simp] theorem State.resetRegisters_errcode (s : State) : s.resetRegisters.errcode = 0#4 := rfl
@[simp] theorem State.resetRegisters_base (s : State) : s.resetRegisters.base = 0#32 := rfl
@[simp] theorem State.resetRegisters_width (s : State) : s.resetRegisters.width = 0#16 := rfl
@[simp] theorem State.resetRegisters_height (s : State) : s.resetRegisters.height = 0#16 := rfl
@[simp] theorem State.resetRegisters_engine (s : State) : s.resetRegisters.engine = .idle := rfl
@[simp] theorem State.resetRegisters_mem (s : State) : s.resetRegisters.mem = s.mem := rfl
@[simp] theorem State.resetRegisters_hostOps (s : State) : s.resetRegisters.hostOps = s.hostOps := rfl
@[simp] theorem State.resetRegisters_turn (s : State) : s.resetRegisters.turn = s.turn := rfl
@[simp] theorem State.resetRegisters_later (s : State) : s.resetRegisters.later = s.later := rfl
@[simp] theorem State.resetRegisters_regReadData (s : State) : s.resetRegisters.regReadData = s.regReadData := rfl
@[simp] theorem State.resetRegisters_memReadData (s : State) : s.resetRegisters.memReadData = s.memReadData := rfl
@[simp] theorem State.resetRegisters_freeDraws (s : State) : s.resetRegisters.freeDraws = s.freeDraws := rfl
@[simp] theorem State.resetRegisters_params (s : State) : s.resetRegisters.params = s.params := rfl

/-! ### `State.loseRegion` -/

@[simp] theorem State.loseRegion_ie (s : State) (sh : Shadow) : (s.loseRegion sh).ie = s.ie := rfl
@[simp] theorem State.loseRegion_done (s : State) (sh : Shadow) : (s.loseRegion sh).done = s.done := rfl
@[simp] theorem State.loseRegion_err (s : State) (sh : Shadow) : (s.loseRegion sh).err = s.err := rfl
@[simp] theorem State.loseRegion_ovr (s : State) (sh : Shadow) : (s.loseRegion sh).ovr = s.ovr := rfl
@[simp] theorem State.loseRegion_errcode (s : State) (sh : Shadow) : (s.loseRegion sh).errcode = s.errcode := rfl
@[simp] theorem State.loseRegion_base (s : State) (sh : Shadow) : (s.loseRegion sh).base = s.base := rfl
@[simp] theorem State.loseRegion_width (s : State) (sh : Shadow) : (s.loseRegion sh).width = s.width := rfl
@[simp] theorem State.loseRegion_height (s : State) (sh : Shadow) : (s.loseRegion sh).height = s.height := rfl
@[simp] theorem State.loseRegion_engine (s : State) (sh : Shadow) : (s.loseRegion sh).engine = s.engine := rfl
@[simp] theorem State.loseRegion_mem (s : State) (sh : Shadow) :
    (s.loseRegion sh).mem = s.mem.writePixels sh.start (freePixels s.freeDraws sh.pixelCount) := rfl
@[simp] theorem State.loseRegion_hostOps (s : State) (sh : Shadow) : (s.loseRegion sh).hostOps = s.hostOps := rfl
@[simp] theorem State.loseRegion_turn (s : State) (sh : Shadow) : (s.loseRegion sh).turn = s.turn := rfl
@[simp] theorem State.loseRegion_later (s : State) (sh : Shadow) : (s.loseRegion sh).later = s.later := rfl
@[simp] theorem State.loseRegion_regReadData (s : State) (sh : Shadow) :
    (s.loseRegion sh).regReadData = s.regReadData := rfl
@[simp] theorem State.loseRegion_memReadData (s : State) (sh : Shadow) :
    (s.loseRegion sh).memReadData = s.memReadData := rfl
@[simp] theorem State.loseRegion_freeDraws (s : State) (sh : Shadow) :
    (s.loseRegion sh).freeDraws = s.freeDraws + 3 * sh.pixelCount := rfl
@[simp] theorem State.loseRegion_params (s : State) (sh : Shadow) : (s.loseRegion sh).params = s.params := rfl

/-! ### `State.accept` -/

@[simp] theorem State.accept_ie (s : State) (w : Word) (build : Image → Tables) : (s.accept w build).ie = s.ie := rfl
@[simp] theorem State.accept_done (s : State) (w : Word) (build : Image → Tables) :
    (s.accept w build).done = false := rfl
@[simp] theorem State.accept_err (s : State) (w : Word) (build : Image → Tables) : (s.accept w build).err = false := rfl
@[simp] theorem State.accept_ovr (s : State) (w : Word) (build : Image → Tables) : (s.accept w build).ovr = s.ovr := rfl
@[simp] theorem State.accept_errcode (s : State) (w : Word) (build : Image → Tables) :
    (s.accept w build).errcode = 0#4 := rfl
@[simp] theorem State.accept_base (s : State) (w : Word) (build : Image → Tables) :
    (s.accept w build).base = s.base := rfl
@[simp] theorem State.accept_width (s : State) (w : Word) (build : Image → Tables) :
    (s.accept w build).width = s.width := rfl
@[simp] theorem State.accept_height (s : State) (w : Word) (build : Image → Tables) :
    (s.accept w build).height = s.height := rfl
@[simp] theorem State.accept_engine (s : State) (w : Word) (build : Image → Tables) :
    (s.accept w build).engine = .busy (s.launched w build) := rfl
@[simp] theorem State.accept_mem (s : State) (w : Word) (build : Image → Tables) : (s.accept w build).mem = s.mem := rfl
@[simp] theorem State.accept_hostOps (s : State) (w : Word) (build : Image → Tables) :
    (s.accept w build).hostOps = s.hostOps := rfl
@[simp] theorem State.accept_turn (s : State) (w : Word) (build : Image → Tables) :
    (s.accept w build).turn = s.turn := rfl
@[simp] theorem State.accept_later (s : State) (w : Word) (build : Image → Tables) :
    (s.accept w build).later = s.later := rfl
@[simp] theorem State.accept_regReadData (s : State) (w : Word) (build : Image → Tables) :
    (s.accept w build).regReadData = s.regReadData := rfl
@[simp] theorem State.accept_memReadData (s : State) (w : Word) (build : Image → Tables) :
    (s.accept w build).memReadData = s.memReadData := rfl
@[simp] theorem State.accept_freeDraws (s : State) (w : Word) (build : Image → Tables) :
    (s.accept w build).freeDraws = s.freeDraws := rfl
@[simp] theorem State.accept_params (s : State) (w : Word) (build : Image → Tables) :
    (s.accept w build).params = s.params := rfl

/-! ### `State.busError` -/

@[simp] theorem State.busError_ie (s : State) (r : Running) : (s.busError r).ie = s.ie := rfl
@[simp] theorem State.busError_done (s : State) (r : Running) : (s.busError r).done = true := rfl
@[simp] theorem State.busError_err (s : State) (r : Running) : (s.busError r).err = true := rfl
@[simp] theorem State.busError_ovr (s : State) (r : Running) : (s.busError r).ovr = s.ovr := rfl
@[simp] theorem State.busError_errcode (s : State) (r : Running) : (s.busError r).errcode = 6#4 := rfl
@[simp] theorem State.busError_base (s : State) (r : Running) : (s.busError r).base = s.base := rfl
@[simp] theorem State.busError_width (s : State) (r : Running) : (s.busError r).width = s.width := rfl
@[simp] theorem State.busError_height (s : State) (r : Running) : (s.busError r).height = s.height := rfl
@[simp] theorem State.busError_engine (s : State) (r : Running) : (s.busError r).engine = .idle := rfl
@[simp] theorem State.busError_mem (s : State) (r : Running) :
    (s.busError r).mem = s.mem.writePixels r.shadow.start (freePixels s.freeDraws r.shadow.pixelCount) := rfl
@[simp] theorem State.busError_hostOps (s : State) (r : Running) : (s.busError r).hostOps = s.hostOps := rfl
@[simp] theorem State.busError_turn (s : State) (r : Running) : (s.busError r).turn = s.turn := rfl
@[simp] theorem State.busError_later (s : State) (r : Running) : (s.busError r).later = s.later := rfl
@[simp] theorem State.busError_regReadData (s : State) (r : Running) : (s.busError r).regReadData = s.regReadData := rfl
@[simp] theorem State.busError_memReadData (s : State) (r : Running) : (s.busError r).memReadData = s.memReadData := rfl
@[simp] theorem State.busError_freeDraws (s : State) (r : Running) :
    (s.busError r).freeDraws = s.freeDraws + 3 * r.shadow.pixelCount := rfl
@[simp] theorem State.busError_params (s : State) (r : Running) : (s.busError r).params = s.params := rfl

/-! ### `State.stall`: only the engine's mark changes (R202) -/

@[simp] theorem State.stall_ie (s : State) (r : Running) : (s.stall r).ie = s.ie := rfl
@[simp] theorem State.stall_done (s : State) (r : Running) : (s.stall r).done = s.done := rfl
@[simp] theorem State.stall_err (s : State) (r : Running) : (s.stall r).err = s.err := rfl
@[simp] theorem State.stall_ovr (s : State) (r : Running) : (s.stall r).ovr = s.ovr := rfl
@[simp] theorem State.stall_errcode (s : State) (r : Running) : (s.stall r).errcode = s.errcode := rfl
@[simp] theorem State.stall_base (s : State) (r : Running) : (s.stall r).base = s.base := rfl
@[simp] theorem State.stall_width (s : State) (r : Running) : (s.stall r).width = s.width := rfl
@[simp] theorem State.stall_height (s : State) (r : Running) : (s.stall r).height = s.height := rfl
@[simp] theorem State.stall_engine (s : State) (r : Running) :
    (s.stall r).engine = .busy { r with unanswered := true } := rfl
@[simp] theorem State.stall_mem (s : State) (r : Running) : (s.stall r).mem = s.mem := rfl
@[simp] theorem State.stall_hostOps (s : State) (r : Running) : (s.stall r).hostOps = s.hostOps := rfl
@[simp] theorem State.stall_turn (s : State) (r : Running) : (s.stall r).turn = s.turn := rfl
@[simp] theorem State.stall_later (s : State) (r : Running) : (s.stall r).later = s.later := rfl
@[simp] theorem State.stall_regReadData (s : State) (r : Running) : (s.stall r).regReadData = s.regReadData := rfl
@[simp] theorem State.stall_memReadData (s : State) (r : Running) : (s.stall r).memReadData = s.memReadData := rfl
@[simp] theorem State.stall_freeDraws (s : State) (r : Running) : (s.stall r).freeDraws = s.freeDraws := rfl
@[simp] theorem State.stall_params (s : State) (r : Running) : (s.stall r).params = s.params := rfl

/-! ### `State.writeBase` -/

@[simp] theorem State.writeBase_ie (s : State) (d : Word) : (s.writeBase d).ie = s.ie := rfl
@[simp] theorem State.writeBase_done (s : State) (d : Word) : (s.writeBase d).done = s.done := rfl
@[simp] theorem State.writeBase_err (s : State) (d : Word) : (s.writeBase d).err = s.err := rfl
@[simp] theorem State.writeBase_ovr (s : State) (d : Word) : (s.writeBase d).ovr = s.ovr := rfl
@[simp] theorem State.writeBase_errcode (s : State) (d : Word) : (s.writeBase d).errcode = s.errcode := rfl
@[simp] theorem State.writeBase_base (s : State) (d : Word) : (s.writeBase d).base = d := rfl
@[simp] theorem State.writeBase_width (s : State) (d : Word) : (s.writeBase d).width = s.width := rfl
@[simp] theorem State.writeBase_height (s : State) (d : Word) : (s.writeBase d).height = s.height := rfl
@[simp] theorem State.writeBase_engine (s : State) (d : Word) : (s.writeBase d).engine = s.engine := rfl
@[simp] theorem State.writeBase_mem (s : State) (d : Word) : (s.writeBase d).mem = s.mem := rfl
@[simp] theorem State.writeBase_hostOps (s : State) (d : Word) : (s.writeBase d).hostOps = s.hostOps := rfl
@[simp] theorem State.writeBase_turn (s : State) (d : Word) : (s.writeBase d).turn = s.turn := rfl
@[simp] theorem State.writeBase_later (s : State) (d : Word) : (s.writeBase d).later = s.later := rfl
@[simp] theorem State.writeBase_regReadData (s : State) (d : Word) : (s.writeBase d).regReadData = s.regReadData := rfl
@[simp] theorem State.writeBase_memReadData (s : State) (d : Word) : (s.writeBase d).memReadData = s.memReadData := rfl
@[simp] theorem State.writeBase_freeDraws (s : State) (d : Word) : (s.writeBase d).freeDraws = s.freeDraws := rfl
@[simp] theorem State.writeBase_params (s : State) (d : Word) : (s.writeBase d).params = s.params := rfl

/-! ### `State.writeWidth` -/

@[simp] theorem State.writeWidth_ie (s : State) (d : Word) : (s.writeWidth d).ie = s.ie := rfl
@[simp] theorem State.writeWidth_done (s : State) (d : Word) : (s.writeWidth d).done = s.done := rfl
@[simp] theorem State.writeWidth_err (s : State) (d : Word) : (s.writeWidth d).err = s.err := rfl
@[simp] theorem State.writeWidth_ovr (s : State) (d : Word) : (s.writeWidth d).ovr = s.ovr := rfl
@[simp] theorem State.writeWidth_errcode (s : State) (d : Word) : (s.writeWidth d).errcode = s.errcode := rfl
@[simp] theorem State.writeWidth_base (s : State) (d : Word) : (s.writeWidth d).base = s.base := rfl
@[simp] theorem State.writeWidth_width (s : State) (d : Word) : (s.writeWidth d).width = d.setWidth 16 := rfl
@[simp] theorem State.writeWidth_height (s : State) (d : Word) : (s.writeWidth d).height = s.height := rfl
@[simp] theorem State.writeWidth_engine (s : State) (d : Word) : (s.writeWidth d).engine = s.engine := rfl
@[simp] theorem State.writeWidth_mem (s : State) (d : Word) : (s.writeWidth d).mem = s.mem := rfl
@[simp] theorem State.writeWidth_hostOps (s : State) (d : Word) : (s.writeWidth d).hostOps = s.hostOps := rfl
@[simp] theorem State.writeWidth_turn (s : State) (d : Word) : (s.writeWidth d).turn = s.turn := rfl
@[simp] theorem State.writeWidth_later (s : State) (d : Word) : (s.writeWidth d).later = s.later := rfl
@[simp] theorem State.writeWidth_regReadData (s : State) (d : Word) :
    (s.writeWidth d).regReadData = s.regReadData := rfl
@[simp] theorem State.writeWidth_memReadData (s : State) (d : Word) :
    (s.writeWidth d).memReadData = s.memReadData := rfl
@[simp] theorem State.writeWidth_freeDraws (s : State) (d : Word) : (s.writeWidth d).freeDraws = s.freeDraws := rfl
@[simp] theorem State.writeWidth_params (s : State) (d : Word) : (s.writeWidth d).params = s.params := rfl

/-! ### `State.writeHeight` -/

@[simp] theorem State.writeHeight_ie (s : State) (d : Word) : (s.writeHeight d).ie = s.ie := rfl
@[simp] theorem State.writeHeight_done (s : State) (d : Word) : (s.writeHeight d).done = s.done := rfl
@[simp] theorem State.writeHeight_err (s : State) (d : Word) : (s.writeHeight d).err = s.err := rfl
@[simp] theorem State.writeHeight_ovr (s : State) (d : Word) : (s.writeHeight d).ovr = s.ovr := rfl
@[simp] theorem State.writeHeight_errcode (s : State) (d : Word) : (s.writeHeight d).errcode = s.errcode := rfl
@[simp] theorem State.writeHeight_base (s : State) (d : Word) : (s.writeHeight d).base = s.base := rfl
@[simp] theorem State.writeHeight_width (s : State) (d : Word) : (s.writeHeight d).width = s.width := rfl
@[simp] theorem State.writeHeight_height (s : State) (d : Word) : (s.writeHeight d).height = d.setWidth 16 := rfl
@[simp] theorem State.writeHeight_engine (s : State) (d : Word) : (s.writeHeight d).engine = s.engine := rfl
@[simp] theorem State.writeHeight_mem (s : State) (d : Word) : (s.writeHeight d).mem = s.mem := rfl
@[simp] theorem State.writeHeight_hostOps (s : State) (d : Word) : (s.writeHeight d).hostOps = s.hostOps := rfl
@[simp] theorem State.writeHeight_turn (s : State) (d : Word) : (s.writeHeight d).turn = s.turn := rfl
@[simp] theorem State.writeHeight_later (s : State) (d : Word) : (s.writeHeight d).later = s.later := rfl
@[simp] theorem State.writeHeight_regReadData (s : State) (d : Word) :
    (s.writeHeight d).regReadData = s.regReadData := rfl
@[simp] theorem State.writeHeight_memReadData (s : State) (d : Word) :
    (s.writeHeight d).memReadData = s.memReadData := rfl
@[simp] theorem State.writeHeight_freeDraws (s : State) (d : Word) : (s.writeHeight d).freeDraws = s.freeDraws := rfl
@[simp] theorem State.writeHeight_params (s : State) (d : Word) : (s.writeHeight d).params = s.params := rfl

/-! ### `State.hostReadsReg` -/

@[simp] theorem State.hostReadsReg_ie (s : State) (r : Reg) : (s.hostReadsReg r).ie = s.ie := rfl
@[simp] theorem State.hostReadsReg_done (s : State) (r : Reg) : (s.hostReadsReg r).done = s.done := rfl
@[simp] theorem State.hostReadsReg_err (s : State) (r : Reg) : (s.hostReadsReg r).err = s.err := rfl
@[simp] theorem State.hostReadsReg_ovr (s : State) (r : Reg) : (s.hostReadsReg r).ovr = s.ovr := rfl
@[simp] theorem State.hostReadsReg_errcode (s : State) (r : Reg) : (s.hostReadsReg r).errcode = s.errcode := rfl
@[simp] theorem State.hostReadsReg_base (s : State) (r : Reg) : (s.hostReadsReg r).base = s.base := rfl
@[simp] theorem State.hostReadsReg_width (s : State) (r : Reg) : (s.hostReadsReg r).width = s.width := rfl
@[simp] theorem State.hostReadsReg_height (s : State) (r : Reg) : (s.hostReadsReg r).height = s.height := rfl
@[simp] theorem State.hostReadsReg_engine (s : State) (r : Reg) : (s.hostReadsReg r).engine = s.engine := rfl
@[simp] theorem State.hostReadsReg_mem (s : State) (r : Reg) : (s.hostReadsReg r).mem = s.mem := rfl
@[simp] theorem State.hostReadsReg_hostOps (s : State) (r : Reg) : (s.hostReadsReg r).hostOps = s.hostOps := rfl
@[simp] theorem State.hostReadsReg_turn (s : State) (r : Reg) : (s.hostReadsReg r).turn = s.turn := rfl
@[simp] theorem State.hostReadsReg_later (s : State) (r : Reg) : (s.hostReadsReg r).later = s.later := rfl
@[simp] theorem State.hostReadsReg_regReadData (s : State) (r : Reg) :
    (s.hostReadsReg r).regReadData = s.readReg r := rfl
@[simp] theorem State.hostReadsReg_memReadData (s : State) (r : Reg) :
    (s.hostReadsReg r).memReadData = s.memReadData := rfl
@[simp] theorem State.hostReadsReg_freeDraws (s : State) (r : Reg) : (s.hostReadsReg r).freeDraws = s.freeDraws := rfl
@[simp] theorem State.hostReadsReg_params (s : State) (r : Reg) : (s.hostReadsReg r).params = s.params := rfl

/-! ### `State.againFirst` -/

@[simp] theorem State.againFirst_ie (s : State) (op : HostOp) : (s.againFirst op).ie = s.ie := rfl
@[simp] theorem State.againFirst_done (s : State) (op : HostOp) : (s.againFirst op).done = s.done := rfl
@[simp] theorem State.againFirst_err (s : State) (op : HostOp) : (s.againFirst op).err = s.err := rfl
@[simp] theorem State.againFirst_ovr (s : State) (op : HostOp) : (s.againFirst op).ovr = s.ovr := rfl
@[simp] theorem State.againFirst_errcode (s : State) (op : HostOp) : (s.againFirst op).errcode = s.errcode := rfl
@[simp] theorem State.againFirst_base (s : State) (op : HostOp) : (s.againFirst op).base = s.base := rfl
@[simp] theorem State.againFirst_width (s : State) (op : HostOp) : (s.againFirst op).width = s.width := rfl
@[simp] theorem State.againFirst_height (s : State) (op : HostOp) : (s.againFirst op).height = s.height := rfl
@[simp] theorem State.againFirst_engine (s : State) (op : HostOp) : (s.againFirst op).engine = s.engine := rfl
@[simp] theorem State.againFirst_mem (s : State) (op : HostOp) : (s.againFirst op).mem = s.mem := rfl
@[simp] theorem State.againFirst_hostOps (s : State) (op : HostOp) : (s.againFirst op).hostOps = op :: s.hostOps := rfl
@[simp] theorem State.againFirst_turn (s : State) (op : HostOp) : (s.againFirst op).turn = s.turn := rfl
@[simp] theorem State.againFirst_later (s : State) (op : HostOp) : (s.againFirst op).later = s.later := rfl
@[simp] theorem State.againFirst_regReadData (s : State) (op : HostOp) :
    (s.againFirst op).regReadData = s.regReadData := rfl
@[simp] theorem State.againFirst_memReadData (s : State) (op : HostOp) :
    (s.againFirst op).memReadData = s.memReadData := rfl
@[simp] theorem State.againFirst_freeDraws (s : State) (op : HostOp) : (s.againFirst op).freeDraws = s.freeDraws := rfl
@[simp] theorem State.againFirst_params (s : State) (op : HostOp) : (s.againFirst op).params = s.params := rfl

/-! ### `State.hostWritesMem` -/

@[simp] theorem State.hostWritesMem_ie (s : State) (a : Nat) (v : Byte) : (s.hostWritesMem a v).ie = s.ie := rfl
@[simp] theorem State.hostWritesMem_done (s : State) (a : Nat) (v : Byte) : (s.hostWritesMem a v).done = s.done := rfl
@[simp] theorem State.hostWritesMem_err (s : State) (a : Nat) (v : Byte) : (s.hostWritesMem a v).err = s.err := rfl
@[simp] theorem State.hostWritesMem_ovr (s : State) (a : Nat) (v : Byte) : (s.hostWritesMem a v).ovr = s.ovr := rfl
@[simp] theorem State.hostWritesMem_errcode (s : State) (a : Nat) (v : Byte) :
    (s.hostWritesMem a v).errcode = s.errcode := rfl
@[simp] theorem State.hostWritesMem_base (s : State) (a : Nat) (v : Byte) : (s.hostWritesMem a v).base = s.base := rfl
@[simp] theorem State.hostWritesMem_width (s : State) (a : Nat) (v : Byte) :
    (s.hostWritesMem a v).width = s.width := rfl
@[simp] theorem State.hostWritesMem_height (s : State) (a : Nat) (v : Byte) :
    (s.hostWritesMem a v).height = s.height := rfl
@[simp] theorem State.hostWritesMem_engine (s : State) (a : Nat) (v : Byte) :
    (s.hostWritesMem a v).engine = s.engine.noteHostWrite a := rfl
@[simp] theorem State.hostWritesMem_mem (s : State) (a : Nat) (v : Byte) :
    (s.hostWritesMem a v).mem = s.mem.write a v := rfl
@[simp] theorem State.hostWritesMem_hostOps (s : State) (a : Nat) (v : Byte) :
    (s.hostWritesMem a v).hostOps = s.hostOps := rfl
@[simp] theorem State.hostWritesMem_turn (s : State) (a : Nat) (v : Byte) : (s.hostWritesMem a v).turn = s.turn := rfl
@[simp] theorem State.hostWritesMem_later (s : State) (a : Nat) (v : Byte) :
    (s.hostWritesMem a v).later = s.later := rfl
@[simp] theorem State.hostWritesMem_regReadData (s : State) (a : Nat) (v : Byte) :
    (s.hostWritesMem a v).regReadData = s.regReadData := rfl
@[simp] theorem State.hostWritesMem_memReadData (s : State) (a : Nat) (v : Byte) :
    (s.hostWritesMem a v).memReadData = s.memReadData := rfl
@[simp] theorem State.hostWritesMem_freeDraws (s : State) (a : Nat) (v : Byte) :
    (s.hostWritesMem a v).freeDraws = s.freeDraws := rfl
@[simp] theorem State.hostWritesMem_params (s : State) (a : Nat) (v : Byte) :
    (s.hostWritesMem a v).params = s.params := rfl

/-! ### `State.endTurn`: nothing but the schedule changes -/

@[simp] theorem State.endTurn_ie (s : State) : s.endTurn.ie = s.ie := by unfold State.endTurn; split <;> rfl
@[simp] theorem State.endTurn_done (s : State) : s.endTurn.done = s.done := by unfold State.endTurn; split <;> rfl
@[simp] theorem State.endTurn_err (s : State) : s.endTurn.err = s.err := by unfold State.endTurn; split <;> rfl
@[simp] theorem State.endTurn_ovr (s : State) : s.endTurn.ovr = s.ovr := by unfold State.endTurn; split <;> rfl
@[simp] theorem State.endTurn_errcode (s : State) : s.endTurn.errcode = s.errcode := by unfold State.endTurn; split <;> rfl
@[simp] theorem State.endTurn_base (s : State) : s.endTurn.base = s.base := by unfold State.endTurn; split <;> rfl
@[simp] theorem State.endTurn_width (s : State) : s.endTurn.width = s.width := by unfold State.endTurn; split <;> rfl
@[simp] theorem State.endTurn_height (s : State) : s.endTurn.height = s.height := by unfold State.endTurn; split <;> rfl
@[simp] theorem State.endTurn_engine (s : State) : s.endTurn.engine = s.engine := by unfold State.endTurn; split <;> rfl
@[simp] theorem State.endTurn_mem (s : State) : s.endTurn.mem = s.mem := by unfold State.endTurn; split <;> rfl
@[simp] theorem State.endTurn_hostOps (s : State) : s.endTurn.hostOps = s.hostOps := by unfold State.endTurn; split <;> rfl
@[simp] theorem State.endTurn_regReadData (s : State) : s.endTurn.regReadData = s.regReadData := by unfold State.endTurn; split <;> rfl
@[simp] theorem State.endTurn_memReadData (s : State) : s.endTurn.memReadData = s.memReadData := by unfold State.endTurn; split <;> rfl
@[simp] theorem State.endTurn_freeDraws (s : State) : s.endTurn.freeDraws = s.freeDraws := by unfold State.endTurn; split <;> rfl
@[simp] theorem State.endTurn_params (s : State) : s.endTurn.params = s.params := by unfold State.endTurn; split <;> rfl

/-! ### `State.resetBlock`: what either reset leaves (R44, R231) -/

@[simp] theorem State.resetBlock_ie (s : State) : s.resetBlock.ie = false := by unfold State.resetBlock; split <;> rfl
@[simp] theorem State.resetBlock_done (s : State) : s.resetBlock.done = false := by unfold State.resetBlock; split <;> rfl
@[simp] theorem State.resetBlock_err (s : State) : s.resetBlock.err = false := by unfold State.resetBlock; split <;> rfl
@[simp] theorem State.resetBlock_ovr (s : State) : s.resetBlock.ovr = false := by unfold State.resetBlock; split <;> rfl
@[simp] theorem State.resetBlock_errcode (s : State) : s.resetBlock.errcode = 0#4 := by unfold State.resetBlock; split <;> rfl
@[simp] theorem State.resetBlock_base (s : State) : s.resetBlock.base = 0#32 := by unfold State.resetBlock; split <;> rfl
@[simp] theorem State.resetBlock_width (s : State) : s.resetBlock.width = 0#16 := by unfold State.resetBlock; split <;> rfl
@[simp] theorem State.resetBlock_height (s : State) : s.resetBlock.height = 0#16 := by unfold State.resetBlock; split <;> rfl
@[simp] theorem State.resetBlock_engine (s : State) : s.resetBlock.engine = .idle := by unfold State.resetBlock; split <;> rfl
@[simp] theorem State.resetBlock_hostOps (s : State) : s.resetBlock.hostOps = s.hostOps := by unfold State.resetBlock; split <;> rfl
@[simp] theorem State.resetBlock_turn (s : State) : s.resetBlock.turn = s.turn := by unfold State.resetBlock; split <;> rfl
@[simp] theorem State.resetBlock_later (s : State) : s.resetBlock.later = s.later := by unfold State.resetBlock; split <;> rfl
@[simp] theorem State.resetBlock_regReadData (s : State) : s.resetBlock.regReadData = s.regReadData := by unfold State.resetBlock; split <;> rfl
@[simp] theorem State.resetBlock_memReadData (s : State) : s.resetBlock.memReadData = s.memReadData := by unfold State.resetBlock; split <;> rfl
@[simp] theorem State.resetBlock_params (s : State) : s.resetBlock.params = s.params := by unfold State.resetBlock; split <;> rfl

/-! ### `State.complete`: what a successful completion leaves (R108) -/

@[simp] theorem State.complete_ie (s : State) (r : Running) (out : Nat → Nat → Rgb) : (s.complete r out).ie = s.ie := by
  unfold State.complete; split <;> rfl
@[simp] theorem State.complete_done (s : State) (r : Running) (out : Nat → Nat → Rgb) : (s.complete r out).done = true := by
  unfold State.complete; split <;> rfl
@[simp] theorem State.complete_err (s : State) (r : Running) (out : Nat → Nat → Rgb) : (s.complete r out).err = s.err := by
  unfold State.complete; split <;> rfl
@[simp] theorem State.complete_ovr (s : State) (r : Running) (out : Nat → Nat → Rgb) : (s.complete r out).ovr = s.ovr := by
  unfold State.complete; split <;> rfl
@[simp] theorem State.complete_errcode (s : State) (r : Running) (out : Nat → Nat → Rgb) : (s.complete r out).errcode = s.errcode := by
  unfold State.complete; split <;> rfl
@[simp] theorem State.complete_base (s : State) (r : Running) (out : Nat → Nat → Rgb) : (s.complete r out).base = s.base := by
  unfold State.complete; split <;> rfl
@[simp] theorem State.complete_width (s : State) (r : Running) (out : Nat → Nat → Rgb) : (s.complete r out).width = s.width := by
  unfold State.complete; split <;> rfl
@[simp] theorem State.complete_height (s : State) (r : Running) (out : Nat → Nat → Rgb) : (s.complete r out).height = s.height := by
  unfold State.complete; split <;> rfl
@[simp] theorem State.complete_engine (s : State) (r : Running) (out : Nat → Nat → Rgb) : (s.complete r out).engine = .idle := by
  unfold State.complete; split <;> rfl
@[simp] theorem State.complete_hostOps (s : State) (r : Running) (out : Nat → Nat → Rgb) : (s.complete r out).hostOps = s.hostOps := by
  unfold State.complete; split <;> rfl
@[simp] theorem State.complete_turn (s : State) (r : Running) (out : Nat → Nat → Rgb) : (s.complete r out).turn = s.turn := by
  unfold State.complete; split <;> rfl
@[simp] theorem State.complete_later (s : State) (r : Running) (out : Nat → Nat → Rgb) : (s.complete r out).later = s.later := by
  unfold State.complete; split <;> rfl
@[simp] theorem State.complete_regReadData (s : State) (r : Running) (out : Nat → Nat → Rgb) : (s.complete r out).regReadData = s.regReadData := by
  unfold State.complete; split <;> rfl
@[simp] theorem State.complete_memReadData (s : State) (r : Running) (out : Nat → Nat → Rgb) : (s.complete r out).memReadData = s.memReadData := by
  unfold State.complete; split <;> rfl
@[simp] theorem State.complete_params (s : State) (r : Running) (out : Nat → Nat → Rgb) : (s.complete r out).params = s.params := by
  unfold State.complete; split <;> rfl

/-! ### `State.hostReadsMem`: only the data returned and the free draws may change (R61) -/

@[simp] theorem State.hostReadsMem_ie (s : State) (a : Nat) : (s.hostReadsMem a).ie = s.ie := by
  unfold State.hostReadsMem; split
  · rfl
  · split <;> rfl
@[simp] theorem State.hostReadsMem_done (s : State) (a : Nat) : (s.hostReadsMem a).done = s.done := by
  unfold State.hostReadsMem; split
  · rfl
  · split <;> rfl
@[simp] theorem State.hostReadsMem_err (s : State) (a : Nat) : (s.hostReadsMem a).err = s.err := by
  unfold State.hostReadsMem; split
  · rfl
  · split <;> rfl
@[simp] theorem State.hostReadsMem_ovr (s : State) (a : Nat) : (s.hostReadsMem a).ovr = s.ovr := by
  unfold State.hostReadsMem; split
  · rfl
  · split <;> rfl
@[simp] theorem State.hostReadsMem_errcode (s : State) (a : Nat) : (s.hostReadsMem a).errcode = s.errcode := by
  unfold State.hostReadsMem; split
  · rfl
  · split <;> rfl
@[simp] theorem State.hostReadsMem_base (s : State) (a : Nat) : (s.hostReadsMem a).base = s.base := by
  unfold State.hostReadsMem; split
  · rfl
  · split <;> rfl
@[simp] theorem State.hostReadsMem_width (s : State) (a : Nat) : (s.hostReadsMem a).width = s.width := by
  unfold State.hostReadsMem; split
  · rfl
  · split <;> rfl
@[simp] theorem State.hostReadsMem_height (s : State) (a : Nat) : (s.hostReadsMem a).height = s.height := by
  unfold State.hostReadsMem; split
  · rfl
  · split <;> rfl
@[simp] theorem State.hostReadsMem_engine (s : State) (a : Nat) : (s.hostReadsMem a).engine = s.engine := by
  unfold State.hostReadsMem; split
  · rfl
  · split <;> rfl
@[simp] theorem State.hostReadsMem_mem (s : State) (a : Nat) : (s.hostReadsMem a).mem = s.mem := by
  unfold State.hostReadsMem; split
  · rfl
  · split <;> rfl
@[simp] theorem State.hostReadsMem_hostOps (s : State) (a : Nat) : (s.hostReadsMem a).hostOps = s.hostOps := by
  unfold State.hostReadsMem; split
  · rfl
  · split <;> rfl
@[simp] theorem State.hostReadsMem_turn (s : State) (a : Nat) : (s.hostReadsMem a).turn = s.turn := by
  unfold State.hostReadsMem; split
  · rfl
  · split <;> rfl
@[simp] theorem State.hostReadsMem_later (s : State) (a : Nat) : (s.hostReadsMem a).later = s.later := by
  unfold State.hostReadsMem; split
  · rfl
  · split <;> rfl
@[simp] theorem State.hostReadsMem_regReadData (s : State) (a : Nat) : (s.hostReadsMem a).regReadData = s.regReadData := by
  unfold State.hostReadsMem; split
  · rfl
  · split <;> rfl
@[simp] theorem State.hostReadsMem_params (s : State) (a : Nat) : (s.hostReadsMem a).params = s.params := by
  unfold State.hostReadsMem; split
  · rfl
  · split <;> rfl

end Sys2Proof.Machine
end

