-- ==== Sys2Proof/Laws/Ops.lean ====
section
/-! SUPPORT. For each shared operation, once, everything it can answer; for the step, everything it can do. -/

namespace Sys2Proof.Machine

/-! ### Regions -/

theorem Shadow.covers_iff (sh : Shadow) (a : Nat) : sh.covers a = true ↔ sh.start ≤ a ∧ a < sh.stop := by
  simp [Shadow.covers]

theorem Shadow.isAlpha_iff (sh : Shadow) (a : Nat) : sh.isAlpha a = true ↔ (a - sh.start) % 4 = 3 := by
  simp [Shadow.isAlpha]

theorem Shadow.isColour_iff (sh : Shadow) (a : Nat) :
    sh.isColour a = true ↔ sh.start ≤ a ∧ a < sh.stop ∧ (a - sh.start) % 4 ≠ 3 := by
  simp [Shadow.isColour, Shadow.covers, Shadow.isAlpha, and_assoc]

/-- A byte that is no colour byte of the region is outside it or an alpha byte. -/
theorem Shadow.isColour_false (sh : Shadow) (a : Nat) (h : sh.isColour a = false) :
    a < sh.start ∨ sh.start + 4 * sh.pixelCount ≤ a ∨ (a - sh.start) % 4 = 3 := by
  by_contra hc
  have : sh.isColour a = true := (sh.isColour_iff a).2 (by unfold Shadow.stop; omega)
  simp [h] at this

@[simp] theorem Running.image_width (r : Running) : r.image.width = r.shadow.width.toNat := rfl
@[simp] theorem Running.image_height (r : Running) : r.image.height = r.shadow.height.toNat := rfl
@[simp] theorem Running.image_pixels (r : Running) : r.image.pixels = r.snapshot := rfl
@[simp] theorem Running.image_pixelCount (r : Running) : r.image.pixelCount = r.shadow.pixelCount := rfl

/-! ### What the engine writes -/

/-- Losing a region leaves every byte that is no colour byte of it (R202, R231). -/
theorem State.loseRegion_read_other (s : State) (sh : Shadow) (a : Nat) (h : sh.isColour a = false) :
    (s.loseRegion sh).mem.read a = s.mem.read a := by
  rw [State.loseRegion_mem, Memory.read_writePixels_other]
  simpa using sh.isColour_false a h

/-- Losing a region makes channel c of pixel number k draw number freeDraws + 3k + c. -/
theorem State.loseRegion_read_colour (s : State) (sh : Shadow) (k : Nat) (c : Colour) (hm : s.mem.wf = true)
    (hk : k < sh.pixelCount) :
    (s.loseRegion sh).mem.read (sh.start + 4 * k + c.offset) = Config.freeByte (s.freeDraws + 3 * k + c.offset) := by
  rw [State.loseRegion_mem, Memory.read_writePixels_same _ _ _ k c hm (by simpa using hk), freePixels_channel _ _ _ _ hk]

theorem State.complete_mem_clean (s : State) (r : Running) (out : Nat → Nat → Rgb) (h : r.hostWrote = false) :
    (s.complete r out).mem = s.mem.writePixels r.shadow.start (outputPixels r.image out) := by
  simp [State.complete, h]

theorem State.complete_mem_raced (s : State) (r : Running) (out : Nat → Nat → Rgb) (h : r.hostWrote = true) :
    (s.complete r out).mem = (s.loseRegion r.shadow).mem := by
  simp [State.complete, h]

theorem State.complete_freeDraws_clean (s : State) (r : Running) (out : Nat → Nat → Rgb) (h : r.hostWrote = false) :
    (s.complete r out).freeDraws = s.freeDraws := by
  simp [State.complete, h]

/-- Completion leaves every byte that is no colour byte of the region (R56, R57). -/
theorem State.complete_read_other (s : State) (r : Running) (out : Nat → Nat → Rgb) (a : Nat)
    (h : r.shadow.isColour a = false) : (s.complete r out).mem.read a = s.mem.read a := by
  cases hw : r.hostWrote with
  | false =>
    rw [State.complete_mem_clean s r out hw, Memory.read_writePixels_other]
    simpa using r.shadow.isColour_false a h
  | true => rw [State.complete_mem_raced s r out hw, State.loseRegion_read_other s r.shadow a h]

/-- Completion without a race writes every output at its address (R108). -/
theorem State.complete_read_output (s : State) (r : Running) (out : Nat → Nat → Rgb) (x y : Nat) (c : Colour)
    (hm : s.mem.wf = true) (hw : r.hostWrote = false) (hx : x < r.shadow.width.toNat) (hy : y < r.shadow.height.toNat) :
    (s.complete r out).mem.read (r.shadow.addr x y c) = (out x y).channel c := by
  have hk : y * r.shadow.width.toNat + x < (outputPixels r.image out).length := by
    rw [outputPixels_length, Running.image_pixelCount]
    unfold Shadow.pixelCount
    nlinarith
  rw [State.complete_mem_clean s r out hw]
  unfold Shadow.addr
  rw [Memory.read_writePixels_same _ _ _ _ c hm hk]
  exact congrArg (fun p => Rgb.channel p c) (outputPixels_getElem r.image out x y hx hk)

/-- Reset leaves every byte that is no colour byte of a running command's region (R231). -/
theorem State.resetBlock_mem_idle (s : State) (h : s.engine = .idle) : s.resetBlock.mem = s.mem := by
  simp [State.resetBlock, h]

theorem State.resetBlock_mem_busy (s : State) (r : Running) (h : s.engine = .busy r) :
    s.resetBlock.mem = (s.loseRegion r.shadow).mem := by
  simp [State.resetBlock, h]

/-! ### Commands -/

/-- Every arm of `exec` is one event of its command. -/
theorem exec_eq (i : Instr) (s : State) : exec i s = commandEvent i (tablesOf i) (outputOf i) s := by
  cases i <;> rfl

/-- Everything command issue can answer (R105). -/
theorem issue_cases {w : Word} {build : Image → Tables} {s t : State} (h : issue w build s = .next t) :
    (∃ r, s.engine = .busy r ∧ t = s.setOverrun) ∨
    (∃ e, s.engine = .idle ∧ issueCheck s.params w s.base s.width s.height = some e ∧ t = s.completeWithError e) ∨
    (s.engine = .idle ∧ issueCheck s.params w s.base s.width s.height = none ∧
      s.params.launchAllowed (s.shadowOf w).start (s.shadowOf w).stop = true ∧ t = s.accept w build) := by
  unfold issue at h
  split at h
  · next r hr => exact .inl ⟨r, hr, by simpa using h.symm⟩
  · next hi =>
    split at h
    · next e he => exact .inr (.inl ⟨e, hi, he, by simpa using h.symm⟩)
    · next hn =>
      split at h
      · next hl => exact .inr (.inr ⟨hi, hn, hl, by simpa using h.symm⟩)
      · cases h

/-- Everything that the answer to a command's accesses can be (R202). -/
theorem Params.answer_cases (p : Params) (sh : Shadow) (a : BusAnswer) :
    (p.admits sh.start sh.stop = true ∧ p.answer sh a = a) ∨
    (p.admits sh.start sh.stop = false ∧ (a = .served ∨ p.admitsSome sh = false) ∧ p.answer sh a = p.memFault.answer) ∨
    (p.admits sh.start sh.stop = false ∧ a ≠ .served ∧ p.admitsSome sh = true ∧ p.answer sh a = a) := by
  unfold Params.answer
  cases p.admits sh.start sh.stop <;> cases p.admitsSome sh <;> by_cases ha : a = .served <;> simp [ha]

/-- All accesses of a command are served exactly where memory admits its region and serves it. -/
theorem Params.answer_eq_served (p : Params) (sh : Shadow) (a : BusAnswer) :
    p.answer sh a = .served ↔ p.admits sh.start sh.stop = true ∧ a = .served := by
  unfold Params.answer
  cases p.admits sh.start sh.stop <;> cases p.memFault <;> cases a <;> cases p.admitsSome sh <;>
    simp [MemFaultResponse.answer]

/-- A window meets `[lo, hi)` exactly if some address lies in both. -/
theorem Window.meets_iff {w : Window} {lo hi : Nat} :
    w.meets lo hi = true ↔ ∃ a, (lo ≤ a ∧ a < hi) ∧ w.base ≤ a ∧ a < w.base + w.size := by
  simp only [Window.meets, decide_eq_true_eq]
  exact ⟨fun h => ⟨max lo w.base, by omega⟩, fun ⟨a, h⟩ => by omega⟩

/-- A launch is inside the contract exactly if no byte of its region is in a window that is not ordinary memory
(R241 (a), (b)). -/
theorem Params.launchAllowed_iff {p : Params} {lo hi : Nat} :
    p.launchAllowed lo hi = true ↔ ∀ w ∈ p.registerWindow :: p.windows, w.kind = .notOrdinary →
      ∀ a, lo ≤ a → a < hi → ¬(w.base ≤ a ∧ a < w.base + w.size) := by
  simp [Params.launchAllowed, Window.meets_iff, -List.mem_cons, -List.any_cons]

/-- A region inside the launch contract is memory, byte for byte (R241 (a), (b)). -/
theorem Params.isMemory_of_launchAllowed {p : Params} {lo hi a : Nat} (h : p.launchAllowed lo hi = true) (hlo : lo ≤ a)
    (hhi : a < hi) : p.isMemory a = true := by
  rw [Params.isMemory, Params.launchAllowed_iff]
  exact fun w hw hk b _ _ => Params.launchAllowed_iff.1 h w hw hk b (by omega) (by omega)

/-- Everything the engine's step of a command can answer (R107, R108, R202). -/
theorem engineStep_cases {r : Running} {answer : BusAnswer} {out : Nat → Nat → Rgb} {s t : State}
    (h : engineStep r answer out s = .next t) :
    r.shadow.stop ≤ 2 ^ 32 ∧
    ((r.unanswered = true ∧ t = s) ∨
      (r.unanswered = false ∧ answer = .served ∧ s.params.admits r.shadow.start r.shadow.stop = true ∧
        t = s.complete r out) ∨
      (r.unanswered = false ∧ s.params.answer r.shadow answer = .error ∧ t = s.busError r) ∨
      (r.unanswered = false ∧ s.params.answer r.shadow answer = .never ∧ t = s.stall r)) := by
  unfold engineStep at h
  split at h
  · cases h
  · next hb =>
    refine ⟨by omega, ?_⟩
    split at h
    · next hu => exact .inl ⟨hu, by simpa using h.symm⟩
    · next hu =>
      have hu : r.unanswered = false := by simpa using hu
      split at h
      · next ha =>
        obtain ⟨ha, hs⟩ := (s.params.answer_eq_served r.shadow answer).1 ha
        exact .inr (.inl ⟨hu, hs, ha, by simpa using h.symm⟩)
      · next ha => exact .inr (.inr (.inl ⟨hu, ha, by simpa using h.symm⟩))
      · next ha => exact .inr (.inr (.inr ⟨hu, ha, by simpa using h.symm⟩))

/-- Everything an event of a command can answer. -/
theorem exec_cases {i : Instr} {s t : State} (h : exec i s = .next t) :
    (s.turn = .host ∧ issue (encode i) (tablesOf i) s = .next t) ∨
    (∃ answer r, s.turn = .engine answer ∧ s.engine = .busy r ∧ r.shadow.op = opOf i ∧
      engineStep r answer (outputOf i r.image r.tables) s = .next t) ∨
    (s.turn ≠ .host ∧ t = s) := by
  rw [exec_eq] at h
  unfold commandEvent at h
  split at h
  · next ht => exact .inl ⟨ht, h⟩
  · next answer ht =>
    split at h
    · exact .inr (.inr ⟨by simp [ht], by simpa using h.symm⟩)
    · next r hr =>
      split at h
      · next ho => exact .inr (.inl ⟨answer, r, ht, hr, ho, h⟩)
      · exact .inr (.inr ⟨by simp [ht], by simpa using h.symm⟩)
  · next ht => exact .inr (.inr ⟨by simp [ht], by simpa using h.symm⟩)

/-! ### The host's transactions -/

/-- Everything a CMD write can answer on the host's turn: what issue answers (R105), with the tables of the command the
word decodes to. -/
theorem writeCmd_cases {w : Word} {s t : State} (hs : s.turn = .host) (h : writeCmd exec w s = .next t) :
    ∃ build, issue w build s = .next t ∧ ∀ i, decode w = some i → w = encode i ∧ build = tablesOf i := by
  unfold writeCmd at h
  split at h
  · next i hi =>
    rcases exec_cases h with ⟨_, h'⟩ | ⟨_, _, ht, _⟩ | ⟨ht, _⟩
    · have hw : w = encode i := by
        unfold decode at hi
        split at hi
        · next hw => cases hi; exact hw
        · split at hi
          · next hw => cases hi; exact hw
          · split at hi
            · next hw => cases hi; exact hw
            · cases hi
      refine ⟨tablesOf i, hw ▸ h', fun j hj => ?_⟩
      rw [hi] at hj
      cases hj
      exact ⟨hw, rfl⟩
    · simp [hs] at ht
    · exact absurd hs ht
  · next hn => exact ⟨_, h, fun i hi => by simp [hn] at hi⟩

/-- What a register write, inside the access contract, can answer (R101 to R105). -/
theorem writeReg_cases {r : Reg} {d : Word} {s t : State} (h : writeReg exec r d s = .next t) :
    ((r = .id ∨ r = .caps ∨ r = .reserved) ∧ t = s) ∨
    (r = .ctrl ∧ d.getLsbD 1 = true ∧ t = s.resetBlock) ∨
    (r = .ctrl ∧ d.getLsbD 1 = false ∧ t = { s with ie := d.getLsbD 0 }) ∨
    (r = .status ∧ t = s.writeStatus d) ∨
    (r = .base ∧ t = s.writeBase d) ∨
    (r = .width ∧ t = s.writeWidth d) ∨
    (r = .height ∧ t = s.writeHeight d) ∨
    (r = .cmd ∧ writeCmd exec d s = .next t) := by
  cases r <;> simp only [writeReg, Host.Outcome.next.injEq] at h <;> try simp [h]
  unfold State.writeCtrl at h
  split at h
  · next hd => exact .inl ⟨hd, h.symm⟩
  · next hd => exact .inr ⟨by simpa using hd, h.symm⟩

/-- What one host transaction, taken from the list, can answer (R100 to R105, R77, R61). -/
theorem hostOp_cases {op : HostOp} {s t : State} (h : hostOp exec op s = .next t) :
    (∃ off size, op = .regRead off size ∧ t = s.hostReadsReg (regAt off)) ∨
    (∃ off size d, op = .regWrite off size d ∧ writeReg exec (regAt off) d s = .next t) ∨
    (∃ off mask val, op = .poll off mask val ∧ s.readReg (regAt off) &&& mask = val ∧
      t = s.hostReadsReg (regAt off)) ∨
    (∃ off mask val, op = .poll off mask val ∧ s.readReg (regAt off) &&& mask ≠ val ∧
      t = (s.hostReadsReg (regAt off)).againFirst (.poll off mask val)) ∨
    (op = .waitIrq ∧ s.irq = true ∧ t = s) ∨
    (op = .waitIrq ∧ s.irq = false ∧ t = s.againFirst .waitIrq) ∨
    (∃ a, op = .memRead a ∧ t = s.hostReadsMem a.toNat) ∨
    (∃ a v, op = .memWrite a v ∧ t = s.hostWritesMem a.toNat v) := by
  cases op with
  | regRead off size =>
    simp only [hostOp] at h
    split at h
    · exact .inl ⟨off, size, rfl, by simpa using h.symm⟩
    · cases h
  | regWrite off size d =>
    simp only [hostOp] at h
    split at h
    · exact .inr (.inl ⟨off, size, d, rfl, h⟩)
    · cases h
  | poll off mask val =>
    simp only [hostOp] at h
    split at h
    · split at h
      · next hv => exact .inr (.inr (.inl ⟨off, mask, val, rfl, hv, by simpa using h.symm⟩))
      · next hv => exact .inr (.inr (.inr (.inl ⟨off, mask, val, rfl, hv, by simpa using h.symm⟩)))
    · cases h
  | waitIrq =>
    simp only [hostOp] at h
    split at h
    · next hq => exact .inr (.inr (.inr (.inr (.inl ⟨rfl, hq, by simpa using h.symm⟩))))
    · next hq => exact .inr (.inr (.inr (.inr (.inr (.inl ⟨rfl, by simpa using hq, by simpa using h.symm⟩)))))
  | memRead a =>
    simp only [hostOp] at h
    split at h
    · cases h; simp
    · cases h
  | memWrite a v =>
    simp only [hostOp] at h
    split at h
    · cases h; simp
    · cases h

/-! ### The step -/

theorem mapNext_eq_next {f : State → State} {o : Outcome} {t : State} :
    mapNext f o = .next t ↔ ∃ u, o = .next u ∧ t = f u := by
  cases o <;> simp [mapNext, eq_comm]

/-- Everything a step can do: one event, then the turn passes on (R4, R207). -/
theorem step_cases {s t : State} (h : step s = .next t) :
    ∃ u, t = u.endTurn ∧
      ((s.turn = .host ∧ s.hostOps = [] ∧ u = s) ∨
       (∃ op rest, s.turn = .host ∧ s.hostOps = op :: rest ∧ hostOp exec op { s with hostOps := rest } = .next u) ∨
       (∃ answer, s.turn = .engine answer ∧ u = s) ∨
       (∃ answer r i, s.turn = .engine answer ∧ s.engine = .busy r ∧ r.shadow.command = some i ∧ exec i s = .next u) ∨
       (s.turn = .resetPin ∧ u = s.resetBlock)) := by
  obtain ⟨u, hu, ht⟩ := mapNext_eq_next.1 h
  refine ⟨u, ht, ?_⟩
  unfold event at hu
  split at hu
  · next hturn =>
    unfold hostTurn at hu
    split at hu
    · next ho => exact .inl ⟨hturn, ho, by simpa using hu.symm⟩
    · next op rest ho => exact .inr (.inl ⟨op, rest, hturn, ho, hu⟩)
  · next answer hturn =>
    unfold engineTurn at hu
    split at hu
    · exact .inr (.inr (.inl ⟨answer, hturn, by simpa using hu.symm⟩))
    · next r hr =>
      split at hu
      · next i hi => exact .inr (.inr (.inr (.inl ⟨answer, r, i, hturn, hr, hi, hu⟩)))
      · exact .inr (.inr (.inl ⟨answer, hturn, by simpa using hu.symm⟩))
  · next hturn => exact .inr (.inr (.inr (.inr ⟨hturn, by simpa using hu.symm⟩)))

end Sys2Proof.Machine
end

