-- ==== Sys2Proof/Laws/PerInstr.lean ====
section
/-! SUPPORT. Statements made for each command: its word is legal (R70, R71). -/

namespace Sys2Proof.Laws.LegalWord

/-- The command's word has RSVD = 0 and a legal OP, and its shadow's opcode is not 0 (R70, R71, R106). -/
def Statement (i : Instr) : Prop := wellFormedWord (encode i) = true ∧ Machine.opOf i ≠ 0#2

theorem gauss5 : Statement .gauss5 := by unfold Statement; decide

theorem histeq : Statement .histeq := by unfold Statement; decide

theorem sobel : Statement .sobel := by unfold Statement; decide

end Sys2Proof.Laws.LegalWord
end

