-- ==== Sys2Proof/Tests/Slice0.lean ====
section
/-! SUPPORT. Tests on small states, and for every obligation with hypotheses a concrete state that meets them. "Vector" names
a row of spec/95_test_vectors.md, whose numbers are not the model's. -/

open Sys2Proof Sys2Proof.Machine

namespace Sys2Proof.Tests

-- One theorem at a time: side by side they take the stacks of some fifty threads.
set_option Elab.async false

/-! ### Small states -/

/-- A platform: sizes up to 8, the register window at 0xF000, nothing at 0x8000, a device at 0x9000. -/
def platform : Params := ⟨8#16, 8#16, 0xF000, 5, .error, [⟨0x8000, 0x100, .absent⟩, ⟨0x9000, 0x100, .notOrdinary⟩]⟩

/-- Bytes put into an empty memory from address `a` on. -/
def place (a : Nat) (bytes : List Nat) : Memory :=
  bytes.zipIdx.foldl (fun m b => m.write (a + b.2) (BitVec.ofNat 8 b.1)) []

/-- The `n` bytes from address `a` on. -/
def bytesAt (m : Memory) (a n : Nat) : List Nat := (List.range n).map fun k => (m.read (a + k)).toNat

/-- An idle machine with an image of the given size and bytes at `base`. -/
def idleAt (base w h : Nat) (bytes : List Nat) : State :=
  { State.reset with
    params := platform, base := BitVec.ofNat 32 base, width := BitVec.ofNat 16 w, height := BitVec.ofNat 16 h
    mem := place base bytes }

/-- The host is about to do `op`, and nothing after it. -/
def hostAt (op : HostOp) (s : State) : State := { s with turn := .host, hostOps := [op] }

/-- The engine runs the command `i`, accepted in `s`, and it is its turn. -/
def running (i : Instr) (s : State) : State :=
  { s with turn := .engine .served, engine := .busy (s.launched (encode i) (tablesOf i)) }

/-- What the engine holds in `running i s`. -/
def heldBy (i : Instr) (s : State) : Running := s.launched (encode i) (tablesOf i)

/-- The state of an outcome. -/
def after : Outcome → State
  | .next s => s
  | .fault _ => State.reset
  | .refused _ => State.reset

/-- Is it a next state? -/
def goesOn : Outcome → Bool
  | .next _ => true
  | .fault _ => false
  | .refused _ => false

/-- The state after `n` steps. -/
def runs (n : Nat) (s : State) : State := after (Host.Core.run Sys2Proof.core n s)

/-- The image's bytes after the command `i` is written to CMD and has run. -/
def outcomeOf (i : Instr) (s : State) (n : Nat) : List Nat :=
  bytesAt (runs 2 (hostAt (cmdWrite (encode i)) s)).mem s.base.toNat n

/-- STATUS after a write of `w` to CMD. -/
def statusAfter (w : Word) (s : State) : Word := (runs 1 (hostAt (cmdWrite w) s)).statusWord

/-- A 4×1 colour row, the input of vector H5. -/
def row : State := idleAt 0x2000 4 1 [255, 0, 0, 1, 0, 255, 0, 2, 0, 0, 255, 3, 255, 255, 255, 4]

/-- `row` on a platform whose memory never answers where it admits no access, at the absent window's last pixel. -/
def stuckRow (m : MemFaultResponse) : State := { idleAt 0x80FC 1 1 [1, 2, 3, 4] with params := { platform with memFault := m } }

/-- A 2×1 image of which memory admits the second pixel only. -/
def edgeRow (m : MemFaultResponse) : State :=
  { idleAt 0x80FC 2 1 [1, 2, 3, 4, 5, 6, 7, 8] with params := { platform with memFault := m } }

/-- `running i s` after an access of the command was left unanswered. -/
def unansweredIn (i : Instr) (s : State) : State := (running i s).stall (heldBy i s)

/-- `s` in an engine turn with memory's answer `a`. -/
def answered (a : BusAnswer) (s : State) : State := { s with turn := .engine a }

/-! ### Decoding and well-formedness -/

theorem test_decode_gauss5 : decode 0b00000000_00000000_00000000_00000001#32 = some .gauss5 := by decide
theorem test_decode_histeq : decode 0b00000000_00000000_00000000_00000010#32 = some .histeq := by decide
theorem test_decode_sobel : decode 0b00000000_00000000_00000000_00000011#32 = some .sobel := by decide

/-- Vector X7's words, and 0: RSVD ≠ 0, or a reserved OP (R73). -/
theorem test_wellFormedWord_refuses :
    wellFormedWord 0x0#32 = false ∧ wellFormedWord 0x4#32 = false ∧ wellFormedWord 0xF#32 = false ∧
    wellFormedWord 0x11#32 = false ∧ wellFormedWord 0x80000001#32 = false ∧ decode 0x80000001#32 = none := by decide

theorem test_wellFormedWord_takes : ∀ i : Instr, i.wellFormed = true ∧ wellFormedWord (encode i) = true := by
  intro i; cases i <;> decide

/-- R53 (b): another width, another alignment. -/
theorem test_wellFormed_register_access_refuses :
    (HostOp.regRead 0x08#6 2).wellFormed = false ∧ (HostOp.regRead 0x09#6 4).wellFormed = false ∧
    (HostOp.regWrite 0x0E#6 4 1#32).wellFormed = false ∧ (HostOp.regWrite 0x0C#6 1 1#32).wellFormed = false ∧
    (HostOp.poll 0x0B#6 2#32 2#32).wellFormed = false ∧ (HostOp.regRead 0x3C#6 4).wellFormed = true := by decide

/-! ### The commands, on the spec's vectors -/

/-- Vector G1: 25 pixels, its centre 35, and the weights outward. -/
theorem test_gauss5_impulse :
    (let img : Image := ⟨5, 5, (List.range 25).map fun k => if k = 12 then ⟨255, 255, 255, 255⟩ else ⟨0, 0, 0, 255⟩⟩
     (outputPixels img (gaussPixel img .empty)).map fun p => p.g.toNat) =
    [0, 3, 5, 3, 0, 3, 15, 23, 15, 3, 5, 23, 35, 23, 5, 3, 15, 23, 15, 3, 0, 3, 5, 3, 0] := by decide +kernel

/-- Vector G4: clamping in both axes, three lanes, alpha kept. -/
theorem test_gauss5_row :
    outcomeOf .gauss5 (idleAt 0x1000 3 1 [0, 0, 0, 1, 255, 128, 64, 2, 10, 20, 30, 3]) 12 =
    [64, 33, 17, 1, 98, 54, 33, 2, 70, 45, 36, 3] := by decide +kernel

/-- Vector H5. -/
theorem test_histeq_row :
    outcomeOf .histeq row 16 = [85, 85, 85, 1, 170, 170, 170, 2, 0, 0, 0, 3, 255, 255, 255, 4] := by decide +kernel

/-- Vector H2: a tie rounds up. Vector H3: a flat image. -/
theorem test_histeq_tie_and_flat :
    outcomeOf .histeq (idleAt 0x1000 3 1 [10, 10, 10, 0, 20, 20, 20, 0, 30, 30, 30, 0]) 12 =
      [0, 0, 0, 0, 128, 128, 128, 0, 255, 255, 255, 0] ∧
    outcomeOf .histeq (idleAt 0x1000 2 1 [255, 0, 0, 9, 255, 0, 0, 9]) 8 = [76, 76, 76, 9, 76, 76, 76, 9] := by
  decide +kernel

/-- Vector S2: saturation, border 0, alpha kept. -/
theorem test_sobel_step :
    outcomeOf .sobel (idleAt 0x3000 3 3 [0, 0, 0, 7, 0, 0, 0, 7, 255, 255, 255, 7, 0, 0, 0, 7, 0, 0, 0, 7, 255, 255, 255, 7,
      0, 0, 0, 7, 0, 0, 0, 7, 255, 255, 255, 7]) 36 =
    [0, 0, 0, 7, 0, 0, 0, 7, 0, 0, 0, 7, 0, 0, 0, 7, 255, 255, 255, 7, 0, 0, 0, 7, 0, 0, 0, 7, 0, 0, 0, 7, 0, 0, 0, 7] := by
  decide +kernel

/-- Vector S7: the centre has weight 0. -/
theorem test_sobel_point :
    (let img : Image := ⟨4, 4, (List.range 16).map fun k => if k = 5 then ⟨40, 40, 40, 9⟩ else ⟨0, 0, 0, 255⟩⟩
     (outputPixels img (sobelPixel img (sobelTables img))).map fun p => p.b.toNat) =
    [0, 0, 0, 0, 0, 0, 80, 0, 0, 80, 56, 0, 0, 0, 0, 0] := by decide +kernel

/-- Vectors L4 to L10 and L12. -/
theorem test_luma :
    [luma 255 0 0, luma 0 255 0, luma 0 0 255, luma 0 0 250, luma 1 1 1, luma 10 20 30, luma 200 100 50, luma 0 0 1] =
    [76, 150, 29, 29, 1, 18, 124, 0] := by decide

/-- Vector S10's boundary. -/
theorem test_isqrt : [isqrt 65024, isqrt 65025, isqrt 65535, isqrt 65536, isqrt 0, isqrt 2] = [254, 255, 255, 256, 0, 1] := by
  decide +kernel

/-! ### Registers, issue and errors, on the spec's vectors -/

/-- Vectors X6 to X10 and X12: the first failing check decides. -/
theorem test_issue_codes :
    statusAfter 0x0#32 { row with width := 0#16 } = 0x106#32 ∧ statusAfter 0x80000001#32 row = 0x106#32 ∧
    statusAfter 2#32 { row with base := 0x1002#32, width := 0#16 } = 0x206#32 ∧
    statusAfter 3#32 { row with width := 9#16 } = 0x306#32 ∧ statusAfter 1#32 { row with base := 0x1003#32 } = 0x406#32 ∧
    statusAfter 1#32 { row with base := 0xFFFFFFF0#32, width := 3#16, height := 2#16 } = 0x506#32 := by decide +kernel

/-- Vector X11: a region that ends exactly at 2^32 is accepted. -/
theorem test_region_to_the_top : statusAfter 1#32 { row with base := 0xFFFFFFF0#32, width := 2#16, height := 2#16 } = 1#32 := by
  decide +kernel

/-- Vectors X20 and X21: accept clears the report; a CMD write while BUSY sets OVR and is dropped. -/
theorem test_accept_then_overrun :
    statusAfter 1#32 (row.completeWithError .zeroDim) = 1#32 ∧ statusAfter 3#32 (running .gauss5 row) = 9#32 ∧
    (runs 2 (hostAt (cmdWrite 3#32) (running .gauss5 row))).statusWord = 0xA#32 := by decide +kernel

/-- Vectors X4, X5, X14, X16 and X17. -/
theorem test_register_writes :
    (runs 1 (hostAt (.regWrite 0x08#6 4 2#32) (row.completeWithError .zeroDim))).statusWord = 0x204#32 ∧
    (runs 1 (hostAt (.regWrite 0x08#6 4 4#32) (row.completeWithError .zeroDim))).statusWord = 0x2#32 ∧
    (runs 1 (hostAt (.regWrite 0x14#6 4 0x10005#32) row)).readReg .width = 5#32 ∧
    (runs 1 (hostAt (.regWrite 0x04#6 4 0xFFFFFFFD#32) row)).ctrlWord = 1#32 ∧
    (runs 1 (hostAt (.regWrite 0x04#6 4 3#32) { row with ie := true })).ctrlWord = 0#32 := by decide +kernel

/-- Vectors X23 and X24: MEM_FAULT_RESPONSE is ERROR, and HANG. -/
theorem test_bus_fault :
    (runs 1 (running .gauss5 (stuckRow .error))).statusWord = 0x606#32 ∧
    (runs 1 (running .gauss5 (stuckRow .error))).engine = .idle ∧
    (runs 3 (running .gauss5 (stuckRow .hang))).statusWord = 1#32 := by decide +kernel

/-- R202: after a hang no later answer ends the command; before it, an error of the admitted part does. -/
theorem test_hang_then_error :
    (runs 1 (answered .error (runs 1 (running .gauss5 (edgeRow .hang))))).statusWord = 1#32 ∧
    (runs 1 (answered .error (unansweredIn .sobel row))).statusWord = 1#32 ∧
    (runs 1 (answered .error (running .gauss5 (edgeRow .hang)))).statusWord = 0x606#32 ∧
    (runs 1 { unansweredIn .sobel row with turn := .resetPin }).statusWord = 0#32 := by decide +kernel

/-- R61 where memory admits no engine access: alpha reads as memory holds it, and keeps the host's write. -/
theorem test_host_in_unadmitted_region :
    (runs 1 (hostAt (.memRead 0x80FF#32) (running .gauss5 (stuckRow .hang)))).memReadData = 4#8 ∧
    (runs 1 (hostAt (.memRead 0x80FC#32) (running .gauss5 (stuckRow .hang)))).freeDraws = 1 ∧
    (runs 1 (hostAt (.memWrite 0x80FF#32 9#8) (running .gauss5 (stuckRow .hang)))).mem.read 0x80FF = 9#8 ∧
    goesOn (step (hostAt (.memRead 0x9000#32) row)) = false := by decide +kernel

/-! ### Witnesses: the statements about the host's transactions -/

theorem does (op : HostOp) (s : State) : Rule.hostDoes (hostAt op s) op [] := ⟨rfl, rfl⟩

theorem witness_StepRunsTheDecodedCommand :
    (Rule.hostDoes (hostAt (cmdWrite 2#32) row) (.regWrite 0x0C#6 4 2#32) [] ∧ decode 2#32 = some .histeq) ∧
    ((running .sobel row).turn = .engine .served ∧ (running .sobel row).engine = .busy (heldBy .sobel row) ∧
      decode ((heldBy .sobel row).shadow.op.setWidth 32) = some .sobel) := ⟨⟨does _ _, rfl⟩, rfl, rfl, rfl⟩

theorem witness_IllegalWordIsRefusedOrDropped :
    Rule.hostDoes (hostAt (cmdWrite 4#32) row) (.regWrite 0x0C#6 4 4#32) [] ∧
    (hostAt (cmdWrite 4#32) row).engine = .idle ∧
    Rule.hostDoes (hostAt (cmdWrite 0x10001#32) (running .gauss5 row)) (.regWrite 0x0C#6 4 0x10001#32) [] ∧
    (hostAt (cmdWrite 0x10001#32) (running .gauss5 row)).busy = true := ⟨does _ _, rfl, does _ _, rfl⟩

/-- The first clause at offsets 0x00 and 0x3C, the second by alignment, by the edge of the window and by width. -/
theorem witness_RegisterReadReturnsItsWord :
    (∀ off size, Rule.hostDoes (hostAt (.regRead off size) row) (.regRead off size) []) ∧
    (0x00#6).toNat % 4 = 0 ∧ (0x3C#6).toNat % 4 = 0 ∧ (0x01#6).toNat % 4 ≠ 0 ∧ (0x3F#6).toNat % 4 ≠ 0 ∧ (2 : Nat) ≠ 4 :=
  ⟨fun _ _ => does _ _, by decide⟩

/-- A write with bit 1 = 0, one with bit 1 = 1 while IDLE, one while BUSY over canonical memory. -/
theorem witness_WriteCtrlSetsEnableOrResets :
    (Rule.hostDoes (hostAt (.regWrite 0x04#6 4 1#32) row) (.regWrite 0x04#6 4 1#32) [] ∧ (1#32).getLsbD 1 = false) ∧
    (Rule.hostDoes (hostAt (.regWrite 0x04#6 4 2#32) row) (.regWrite 0x04#6 4 2#32) [] ∧ (2#32).getLsbD 1 = true) ∧
    ((hostAt (.regWrite 0x04#6 4 2#32) (running .sobel row)).engine = .busy (heldBy .sobel row) ∧ row.mem.wf = true) :=
  ⟨⟨does _ _, rfl⟩, ⟨does _ _, rfl⟩, rfl, by decide +kernel⟩

theorem witness_WriteStatusClearsWhereOne :
    Rule.hostDoes (hostAt ackOp (row.completeWithError .bus)) (.regWrite 0x08#6 4 0xE#32) [] := does _ _

theorem witness_WriteOperandRegisters :
    Rule.hostDoes (hostAt (.regWrite 0x10#6 4 3#32) row) (.regWrite 0x10#6 4 3#32) [] ∧
    Rule.hostDoes (hostAt (.regWrite 0x14#6 4 3#32) (running .gauss5 row)) (.regWrite 0x14#6 4 3#32) [] ∧
    Rule.hostDoes (hostAt (.regWrite 0x18#6 4 3#32) row) (.regWrite 0x18#6 4 3#32) [] := ⟨does _ _, does _ _, does _ _⟩

/-- ID, CAPS, and the first and last reserved offset. -/
theorem witness_WriteOfReadOnlyChangesNothing :
    ∀ off ∈ [0x00#6, 0x1C#6, 0x20#6, 0x3C#6],
      Rule.hostDoes (hostAt (.regWrite off 4 7#32) row) (.regWrite off 4 7#32) [] ∧ off.toNat % 4 = 0 ∧
        (off.toNat = 0x00 ∨ off.toNat = 0x1C ∨ 0x20 ≤ off.toNat) := by
  intro off h
  exact ⟨does _ _, by revert off; decide⟩

theorem witness_NarrowOrMisalignedAccessIsRefused :
    (Rule.hostDoes (hostAt (.regWrite 0x0C#6 1 1#32) row) (.regWrite 0x0C#6 1 1#32) [] ∧ ¬ ((1 : Nat) = 4)) ∧
    (Rule.hostDoes (hostAt (.regWrite 0x3F#6 4 1#32) row) (.regWrite 0x3F#6 4 1#32) [] ∧ (0x3F#6).toNat % 4 ≠ 0) ∧
    (Rule.hostDoes (hostAt (.poll 0x09#6 2#32 2#32) row) (.poll 0x09#6 2#32 2#32) [] ∧ (0x09#6).toNat % 4 ≠ 0) :=
  ⟨⟨does _ _, by decide⟩, ⟨does _ _, by decide⟩, does _ _, by decide⟩

/-- POLL whose value is there and one whose value is not; WAITIRQ likewise. -/
theorem witness_PollAndWaitRepeatUntilTheirEvent :
    (Rule.hostDoes (hostAt (.poll 0x08#6 2#32 0#32) row) (.poll 0x08#6 2#32 0#32) [] ∧ row.statusWord &&& 2#32 = 0#32) ∧
    (Rule.hostDoes (hostAt (.poll 0x08#6 2#32 2#32) row) (.poll 0x08#6 2#32 2#32) [] ∧ row.statusWord &&& 2#32 ≠ 2#32) ∧
    (Rule.hostDoes (hostAt .waitIrq row) .waitIrq [] ∧ row.irq = false) ∧
    (Rule.hostDoes (hostAt .waitIrq { row with ie := true, done := true }) .waitIrq [] ∧
      State.irq { row with ie := true, done := true } = true) :=
  ⟨⟨does _ _, by decide⟩, ⟨does _ _, by decide⟩, ⟨does _ _, rfl⟩, does _ _, rfl⟩

/-! ### Witnesses: issue and accept -/

/-- BUSY; an error; an accepted launch. -/
theorem witness_CommandIssue :
    (Rule.hostDoes (hostAt (cmdWrite 1#32) (running .sobel row)) (.regWrite 0x0C#6 4 1#32) [] ∧
      (hostAt (cmdWrite 1#32) (running .sobel row)).busy = true) ∧
    (Rule.hostDoes (hostAt (cmdWrite 0#32) row) (.regWrite 0x0C#6 4 0#32) [] ∧ row.engine = .idle ∧
      issueCheck row.params 0#32 row.base row.width row.height = some .badOpcode) ∧
    (Rule.hostDoes (hostAt (cmdWrite 1#32) row) (.regWrite 0x0C#6 4 1#32) [] ∧
      issueCheck row.params 1#32 row.base row.width row.height = none ∧
      row.params.launchAllowed row.base.toNat (row.base.toNat + 4 * (row.width.toNat * row.height.toNat)) = true) :=
  ⟨⟨does _ _, rfl⟩, ⟨does _ _, rfl, by decide +kernel⟩, does _ _, by decide +kernel, by decide +kernel⟩

theorem witness_AcceptTakesShadowAndSnapshot :
    ∀ i : Instr, row.turn = .host ∧ row.engine = .idle ∧
      issueCheck row.params (encode i) row.base row.width row.height = none ∧
      row.params.launchAllowed row.base.toNat (row.base.toNat + 4 * (row.width.toNat * row.height.toNat)) = true := by
  intro i; cases i <;> decide +kernel

theorem witness_AcceptBuildsTheTables :
    ∀ i : Instr, row.turn = .host ∧ row.engine = .idle ∧ goesOn (exec i row) = true ∧
      (after (exec i row)).busy = true := by
  intro i; cases i <;> decide +kernel

/-- `row` on a platform whose map lists one window at `b`, of `n` bytes, that is not ordinary memory. -/
def rowBeside (b n : Nat) : State := { row with params := { platform with windows := [⟨b, n, .notOrdinary⟩] } }

/-- `row`'s region is 0x2000 to 0x200F. A window that holds its last byte refuses the launch; one that begins after it, and an
empty one that lies inside it, do not. -/
theorem test_window_shares_an_address :
    ∀ i : Instr, goesOn (exec i (rowBeside 0x200F 1)) = false ∧ goesOn (exec i (rowBeside 0x2010 1)) = true ∧
      goesOn (exec i (rowBeside 0x2008 0)) = true := by
  intro i; cases i <;> decide +kernel

/-- A region that ends at the register window is launched; one that meets its first byte, its last byte, or the device's
window, is refused. -/
theorem witness_LaunchOutsideTheContractIsRefused :
    ∀ i : Instr,
      [0xEFF0#32, 0xEFF4#32, 0xF03C#32, 0x90FC#32].map (issueCheck row.params (encode i) · row.width row.height) =
        [none, none, none, none] ∧
      goesOn (exec i { row with base := 0xEFF0#32 }) = true ∧ goesOn (exec i { row with base := 0xEFF4#32 }) = false ∧
      goesOn (exec i { row with base := 0xF03C#32 }) = false ∧ goesOn (exec i { row with base := 0x90FC#32 }) = false ∧
      goesOn (exec i { row with base := 0xF040#32 }) = true := by
  intro i; cases i <;> decide +kernel

theorem witness_RefusedCommandChangesOnlyTheReport :
    ∀ i : Instr, issueCheck row.params (encode i) 1#32 row.width row.height = some .misaligned ∧
      issueCheck row.params (encode i) row.base 0#16 row.height = some .zeroDim ∧
      issueCheck row.params (encode i) row.base 9#16 row.height = some .dimRange ∧
      issueCheck row.params (encode i) 0xFFFFFFFC#32 2#16 1#16 = some .region := by
  intro i; cases i <;> decide +kernel

/-! ### Witnesses: the flags over a step -/

theorem accepts_row : Rule.accepts (hostAt (cmdWrite 1#32) row) :=
  ⟨1#32, ⟨0x0C#6, [], does _ _, rfl⟩, rfl, by decide⟩

theorem refuses_row : Rule.refusesIssue (hostAt (cmdWrite 0#32) row) .badOpcode :=
  ⟨0#32, ⟨0x0C#6, [], does _ _, rfl⟩, rfl, by decide⟩

theorem engineRuns_row (i : Instr) : Rule.engineRuns (running i row) := ⟨⟨.served, rfl⟩, rfl⟩

theorem softReset_busy : Rule.isReset (hostAt (.regWrite 0x04#6 4 2#32) (running .gauss5 row)) :=
  .inr ⟨_, [], does _ _, 0x04#6, 2#32, rfl, rfl, rfl⟩

theorem clears_row (b : Nat) (d : Word) (s : State) (h : d.getLsbD b = true) :
    Rule.clearsStatusBit (hostAt (.regWrite 0x08#6 4 d) s) b := ⟨0x08#6, d, [], does _ _, rfl, h⟩

theorem writesCmd_busy : Rule.writesCmd (hostAt (cmdWrite 3#32) (running .gauss5 row)) 3#32 := ⟨0x0C#6, [], does _ _, rfl⟩

/-- An accept sets BUSY; a completion and a reset clear it (with `accepts_row`, `engineRuns_row`, `softReset_busy`). -/
theorem witness_BusyFollowsAcceptAndCompletion :
    (goesOn (step (hostAt (cmdWrite 1#32) row)) = true ∧
      (runs 1 (hostAt (cmdWrite 1#32) row)).busy = true) ∧
    (goesOn (step (running .gauss5 row)) = true ∧ (runs 1 (running .gauss5 row)).busy = false) ∧
    (goesOn (step (hostAt (.regWrite 0x04#6 4 2#32) (running .gauss5 row))) = true ∧
      (runs 1 (hostAt (.regWrite 0x04#6 4 2#32) (running .gauss5 row))).busy = false) := by
  decide +kernel

/-- DONE is set by a completion and by a refused issue (`engineRuns_row`, `refuses_row`), and cleared (`clears_row`). -/
theorem witness_DoneFollowsCompletion :
    ((running .gauss5 row).done = false ∧ goesOn (step (running .gauss5 row)) = true ∧
      (runs 1 (running .gauss5 row)).done = true) ∧
    (goesOn (step (hostAt (cmdWrite 0#32) row)) = true ∧ (runs 1 (hostAt (cmdWrite 0#32) row)).done = true) ∧
    (goesOn (step (hostAt ackOp { row with done := true })) = true ∧
      (runs 1 (hostAt ackOp { row with done := true })).done = false) ∧
    (goesOn (step (hostAt (cmdWrite 1#32) { row with done := true })) = true ∧
      (runs 1 (hostAt (cmdWrite 1#32) { row with done := true })).done = false) := by
  decide +kernel

/-- ERR is set by a refused issue (`refuses_row`) and by a bus error, and cleared (`clears_row`). -/
theorem witness_ErrFollowsErrorCompletion :
    ((runs 1 (hostAt (cmdWrite 0#32) row)).err = true ∧ goesOn (step (hostAt (cmdWrite 0#32) row)) = true) ∧
    (goesOn (step { running .gauss5 row with turn := .engine .error }) = true ∧
      (runs 1 { running .gauss5 row with turn := .engine .error }).errcode = 6#4) ∧
    ((row.completeWithError .bus).err = true ∧
      (runs 1 (hostAt (.regWrite 0x08#6 4 4#32) (row.completeWithError .bus))).err = false) := by
  decide +kernel

/-- OVR is set by a CMD write while BUSY (`writesCmd_busy`) and cleared by a STATUS write (`clears_row`) and a reset. -/
theorem witness_OverrunIsSticky :
    ((running .gauss5 row).ovr = false ∧ (runs 1 (hostAt (cmdWrite 3#32) (running .gauss5 row))).ovr = true) ∧
    ((runs 1 (hostAt ackOp { row with ovr := true })).ovr = false) ∧
    ((runs 1 { row with ovr := true, turn := .resetPin }).ovr = false) := by
  decide +kernel

theorem witness_InterruptFollowsEnableAndDone :
    (2#32).getLsbD 1 = true ∧ (0xFFFFFFFC#32).getLsbD 0 = false ∧ (0xFFFFFFFC#32).getLsbD 1 = false := by decide

/-! ### Witnesses: completion -/

theorem mayComplete (i : Instr) : Rule.MayComplete (opOf i) (running i row) (heldBy i row) :=
  ⟨rfl, rfl, rfl, by cases i <;> decide, by cases i <;> decide, rfl, rfl, by cases i <;> decide +kernel, rfl⟩

theorem witness_Gauss5WritesTheBlurredImage : Rule.MayComplete 1#2 (running .gauss5 row) (heldBy .gauss5 row) :=
  mayComplete .gauss5

/-- With the least luma present, 29, and a pixel of the image. -/
theorem witness_HisteqWritesTheEqualizedImage :
    Rule.MayComplete 2#2 (running .histeq row) (heldBy .histeq row) ∧
    (heldBy .histeq row).tables = histeqTables (heldBy .histeq row).image ∧ Rule.leastLuma (heldBy .histeq row).image 29 ∧
    3 < (heldBy .histeq row).shadow.width.toNat :=
  ⟨mayComplete .histeq, rfl, by unfold Rule.leastLuma; decide +kernel, by decide⟩

theorem witness_SobelWritesTheEdgeMap :
    Rule.MayComplete 3#2 (running .sobel row) (heldBy .sobel row) ∧
    (heldBy .sobel row).tables = sobelTables (heldBy .sobel row).image := ⟨mayComplete .sobel, rfl⟩

theorem witness_SuccessfulCompletionWritesEveryOutput :
    ∀ i : Instr, Rule.MayComplete (opOf i) (running i row) (heldBy i row) := mayComplete

/-- The common hypotheses, on the states of the two theorems after this one. -/
theorem witness_BusErrorLosesTheRegion :
    ∀ i : Instr,
      (heldBy i row).shadow.op = opOf i ∧ (heldBy i row).shadow.stop ≤ 2 ^ 32 ∧ row.mem.wf = true ∧
      (heldBy i row).unanswered = false ∧
      (heldBy i (stuckRow .error)).shadow.op = opOf i ∧ (heldBy i (stuckRow .error)).shadow.stop ≤ 2 ^ 32 ∧
      (stuckRow .error).mem.wf = true ∧ (edgeRow .error).mem.wf = true ∧
      (unansweredIn i row).engine = .busy { heldBy i row with unanswered := true } := by
  intro i; cases i <;> exact ⟨rfl, by decide, by decide +kernel, rfl, rfl, by decide, by decide +kernel, by decide +kernel, rfl⟩

/-- Each way to an error response: memory admits all, a part, or none of the region. -/
theorem witness_getsError (i : Instr) :
    Rule.getsError row.params (heldBy i row).shadow .error ∧
    Rule.getsError (edgeRow .hang).params (heldBy i (edgeRow .hang)).shadow .error ∧
    Rule.getsError (stuckRow .error).params (heldBy i (stuckRow .error)).shadow .served ∧
    Rule.getsError (stuckRow .error).params (heldBy i (stuckRow .error)).shadow .never := by
  unfold Rule.getsError
  cases i <;> decide +kernel

/-- Each way to an access that is never answered. -/
theorem witness_neverAnswered (i : Instr) :
    Rule.neverAnswered row.params (heldBy i row).shadow .never ∧
    Rule.neverAnswered (edgeRow .error).params (heldBy i (edgeRow .error)).shadow .never ∧
    Rule.neverAnswered (stuckRow .hang).params (heldBy i (stuckRow .hang)).shadow .served ∧
    Rule.neverAnswered (stuckRow .hang).params (heldBy i (stuckRow .hang)).shadow .error := by
  unfold Rule.neverAnswered
  cases i <;> decide +kernel

/-- A host turn and engine turns beside a stuck command, before and after an access is left unanswered. -/
theorem witness_OnlyResetEndsAStuckCommand :
    (let s := hostAt (cmdWrite 1#32) (running .gauss5 (stuckRow .hang))
     s.turn ≠ .engine .error ∧ goesOn (step s) = true ∧
     s.params.admits (heldBy .gauss5 (stuckRow .hang)).shadow.start (heldBy .gauss5 (stuckRow .hang)).shadow.stop = false ∧
     s.params.memFault = .hang ∧ s.params.admitsSome (heldBy .gauss5 (stuckRow .hang)).shadow = false) ∧
    goesOn (step (answered .error (running .gauss5 (stuckRow .hang)))) = true ∧
    goesOn (step (answered .error (unansweredIn .gauss5 row))) = true ∧
    goesOn (step (hostAt (cmdWrite 1#32) (unansweredIn .gauss5 row))) = true := by
  decide +kernel

theorem witness_OnlyResetEndsAStuckCommand_noReset : ¬ Rule.isReset (running .gauss5 (stuckRow .hang)) := by
  rintro (h | ⟨op, rest, h, _⟩)
  · cases h
  · cases h.1

theorem witness_OnlyResetEndsAStuckCommand_unanswered : ¬ Rule.isReset (answered .error (unansweredIn .gauss5 row)) := by
  rintro (h | ⟨op, rest, h, _⟩)
  · cases h
  · cases h.1

/-- Two states that differ in every register but hold the same shadow. -/
theorem witness_OutputsDependOnlyOnSnapshotAndSize (i : Instr) :
    Rule.MayComplete (opOf i) (running i row) (heldBy i row) ∧
    Rule.MayComplete (opOf i) { running i row with ie := true, ovr := true, base := 0#32, width := 0#16 } (heldBy i row) ∧
    (heldBy i row).tables = tablesOf i (heldBy i row).image :=
  ⟨mayComplete i, ⟨rfl, rfl, rfl, (mayComplete i).inSpace, (mayComplete i).admitted, rfl, rfl, (mayComplete i).canonical, rfl⟩, rfl⟩

theorem witness_RunningCommandIgnoresRewrittenRegisters : (running .histeq row).turn = .engine .served := rfl

theorem witness_CommandTransformsItsRegion :
    ∀ i : Instr, Rule.hostDoes (hostAt (cmdWrite (encode i)) row) (.regWrite 0x0C#6 4 (encode i)) [] ∧
      row.later = [] ∧ row.engine = .idle ∧ row.mem.wf = true ∧
      issueCheck row.params (encode i) row.base row.width row.height = none ∧
      row.params.launchAllowed 0x2000 0x2010 = true ∧ row.params.admits 0x2000 0x2010 = true := by
  intro i; refine ⟨does _ _, rfl, rfl, ?_⟩; cases i <;> decide +kernel

/-! ### Witnesses: memory, races, reset -/

theorem witness_CommandWritesOnlyColourBytes :
    ∀ i : Instr, goesOn (exec i row) = true ∧ goesOn (exec i (running i row)) = true := by
  intro i; cases i <;> decide +kernel

/-- The engine changes a byte, and so does the host. -/
theorem witness_OnlyHostAndEngineChangeMemory :
    (goesOn (step (running .gauss5 row)) = true ∧ (runs 1 (running .gauss5 row)).mem.read 0x2000 ≠ row.mem.read 0x2000) ∧
    (goesOn (step (hostAt (.memWrite 5#32 9#8) row)) = true ∧
      (runs 1 (hostAt (.memWrite 5#32 9#8) row)).mem.read 5 ≠ row.mem.read 5) := by
  decide +kernel

/-- An R byte and the last B byte of a running region; its alpha byte, and the byte after the region. -/
theorem witness_HostReadOfARunningRegionIsFree :
    (∀ p, Rule.hostDoes (hostAt (.memRead p) (running .sobel row)) (.memRead p) []) ∧
    (∀ a ∈ [0x2000, 0x200E], row.params.isMemory a = true ∧ (heldBy .sobel row).shadow.isColour a = true) ∧
    (∀ a ∈ [0x1FFF, 0x200F, 0x2010], row.params.isMemory a = true ∧ (heldBy .sobel row).shadow.isColour a = false) :=
  ⟨fun _ => does _ _, by decide, by decide⟩

theorem witness_HostWriteOfARunningRegionLosesIt :
    (Rule.hostDoes (hostAt (.memWrite 0x200F#32 9#8) (running .sobel row)) (.memWrite 0x200F#32 9#8) [] ∧
      row.params.isMemory 0x200F = true ∧ row.mem.wf = true ∧ (heldBy .sobel row).shadow.covers 0x200F = true) ∧
    (∀ i : Instr,
      let r : Running := { heldBy i row with hostWrote := true }
      let s : State := { running i row with engine := .busy r }
      s.turn = .engine .served ∧ s.engine = .busy r ∧ r.shadow.op = opOf i ∧ r.shadow.stop ≤ 2 ^ 32 ∧
        s.params.admits r.shadow.start r.shadow.stop = true ∧ r.unanswered = false ∧ s.mem.wf = true ∧
        r.hostWrote = true) := by
  refine ⟨⟨does _ _, by decide +kernel⟩, fun i => ?_⟩
  cases i <;> decide +kernel

theorem witness_DisciplinedHostNeverRaces :
    State.noRace (hostAt (.memWrite 0x2010#32 9#8) (running .sobel row)) ∧
    State.hostDisciplined (hostAt (.memWrite 0x2010#32 9#8) (running .sobel row)) ∧
    goesOn (step (hostAt (.memWrite 0x2010#32 9#8) (running .sobel row))) = true := by
  refine ⟨fun r h => ?_, fun _ op rest h => ?_, by decide +kernel⟩
  · cases h; rfl
  · cases h
    intro r hr
    cases hr
    decide

theorem witness_ResetLeavesTheResetValues :
    (hostAt .waitIrq { row with turn := .resetPin }).turn = .host ∧ { row with turn := Turn.resetPin }.turn = .resetPin ∧
    Rule.hostDoes (hostAt (.regWrite 0x04#6 4 3#32) row) (.regWrite 0x04#6 4 3#32) [] ∧ (3#32).getLsbD 1 = true :=
  ⟨rfl, rfl, does _ _, rfl⟩

theorem witness_ResetWhileBusyIsNoCompletion :
    { running .sobel row with turn := .resetPin }.turn = .resetPin ∧
    { running .sobel row with turn := .resetPin }.engine = .busy (heldBy .sobel row) ∧ row.mem.wf = true :=
  ⟨rfl, rfl, by decide +kernel⟩

theorem witness_SoftResetIsTheHardwareReset :
    Rule.hostDoes (hostAt (.regWrite 0x04#6 4 2#32) (running .sobel row)) (.regWrite 0x04#6 4 2#32) [] ∧
    (2#32).getLsbD 1 = true := ⟨does _ _, rfl⟩

/-! ### Witnesses: the arithmetic -/

/-- A 4×1 image of four lumas, one of 2×1 with one luma, a 1×1 image. -/
def colours : Image := (heldBy .histeq row).image
def flat : Image := ⟨2, 1, [⟨255, 0, 0, 9⟩, ⟨255, 0, 0, 8⟩]⟩
/-- A 4×4 image whose pixels (1, 1) and (3, 3) have luma `v`'s. -/
def square (v : Byte) : Image :=
  ⟨4, 4, (List.range 16).map fun k => if k = 5 ∨ k = 15 then ⟨v, 0, 0, 1⟩ else ⟨0, 9, 0, 1⟩⟩

theorem witness_IsqrtIsTheGreatestRoot : 3 * 3 ≤ 10 := by decide

theorem witness_LumaClampNeverActs : (255 : Nat) ≤ 255 := by decide

theorem witness_GaussWeightsAreTheBinomialTable : (0 : Nat) < 5 ∧ 4 < 5 := by decide

theorem witness_GaussKeepsAFlatChannel :
    0 < flat.width ∧ 0 < flat.height ∧ ∀ x < flat.width, ∀ y < flat.height, (flat.pixelAt x y).channel .red = 255 := by
  decide

/-- `flat` with other green, blue and alpha bytes. -/
def flatRed : Image := ⟨2, 1, [⟨255, 1, 2, 3⟩, ⟨255, 4, 5, 6⟩]⟩

/-- Two images that agree in red on the whole footprint of (0, 0), and differ elsewhere. -/
theorem witness_GaussLanesAndFootprint :
    flat.width = flatRed.width ∧ flat.height = flatRed.height ∧ ∀ kx < 5, ∀ ky < 5,
      (flat.pixelAt (clampCoord (0 + ((kx : Nat) : Int) - 2) 2) (clampCoord (0 + ((ky : Nat) : Int) - 2) 1)).channel .red =
        (flatRed.pixelAt (clampCoord (0 + ((kx : Nat) : Int) - 2) 2)
          (clampCoord (0 + ((ky : Nat) : Int) - 2) 1)).channel .red := by
  decide

theorem witness_HistogramAndCdfCountEveryPixel :
    colours.pixels.length = colours.pixelCount ∧ colours.pixelCount ≤ 2 ^ 30 ∧ (1 : Nat) ≤ 255 ∧ 255 < 256 := by
  decide +kernel

theorem witness_CdfMinIsTheCountOfTheLeastLuma :
    (0 < (histogram colours).getD 29 0 ∧ ∀ j < 29, (histogram colours).getD j 0 = 0) ∧ colours.pixels ≠ [] := by
  decide +kernel

/-- D > 0; the least luma, 29; the greatest luma 255 has cdf = N. -/
theorem witness_LookupTableStretchesToTheFullRange :
    colours.pixels.length = colours.pixelCount ∧ 0 < colours.pixelCount - (histogram colours).getD 29 0 ∧
    (0 < (histogram colours).getD 29 0 ∧ ∀ j < 29, (histogram colours).getD j 0 = 0) ∧
    (cumulative colours).getD 255 0 = colours.pixelCount := by
  decide +kernel

theorem witness_FlatImageHasTheIdentityTable :
    (flat.pixels ≠ [] ∧ flat.pixels.length = flat.pixelCount ∧ cdfRange flat = 0) ∧
    (colours.pixels ≠ [] ∧ colours.pixels.length = colours.pixelCount ∧ cdfRange colours ≠ 0) := by
  decide +kernel

theorem witness_SobelIsZeroOnFlatImagesAndBorders :
    flat.pixels.length = flat.pixelCount ∧ (∀ x < flat.width, ∀ y < flat.height, Rule.lumaAt flat x y = 76) ∧
    flat.height < 3 := by
  decide +kernel

/-- Two images that differ at the centre (1, 1) and at (3, 3), which is no neighbour of it; and an orientation of the kernels
that negates, exchanges and swaps. -/
theorem witness_SobelReadsTheEightNeighboursOnly :
    (square 7).pixels.length = (square 7).pixelCount ∧ (square 200).pixels.length = (square 200).pixelCount ∧
    (square 7).isBorder 1 1 = false ∧ Rule.lumaAt (square 7) 1 1 ≠ Rule.lumaAt (square 200) 1 1 ∧
    Rule.lumaAt (square 7) 3 3 ≠ Rule.lumaAt (square 200) 3 3 ∧
    ∀ i < 3, ∀ j < 3, (i, j) ≠ (1, 1) →
      Rule.lumaAt (square 7) (1 + i - 1) (1 + j - 1) = Rule.lumaAt (square 200) (1 + i - 1) (1 + j - 1) := by
  decide +kernel

theorem witness_SobelReadsTheEightNeighboursOnly_orientation :
    Rule.sobelOrientation (Rule.transposed sobelX) (Rule.negated sobelX) :=
  ⟨_, _, .inr (.inl rfl), .inr (.inr rfl), .inr ⟨rfl, rfl⟩⟩

/-! ### Witnesses: the invariant -/

/-- The second clause of `RegisterReadReturnsItsWord`, the last of `ErrFollowsErrorCompletion` and the last of
`HostReadOfARunningRegionIsFree` are about the invariant's state below too. -/
theorem witness_busy_reads_one : (running .gauss5 row).busy = true ∧ (running .gauss5 row).turn = .engine .served ∧
    row.params.admits (heldBy .gauss5 row).shadow.start (heldBy .gauss5 row).shadow.stop = true ∧
    Rule.readValue (running .gauss5 row) 0x08 = 1 := by decide +kernel

/-- A running command whose state meets the invariant, on the engine's turn with memory that answers. -/
theorem witness_EveryStepKeepsTheInvariant : (running .gauss5 row).Inv where
  params := by unfold Params.inRange; decide
  memCanonical := by decide +kernel
  memInSpace := by decide +kernel
  noErrorNoCode := fun _ => rfl
  errorHasCode := fun h => by cases h
  runningGood := fun r h => by
    cases h
    exact ⟨by decide, by decide, by decide, fun i hi => by cases hi; rfl⟩
  runningNoReport := fun _ _ => ⟨rfl, rfl⟩
  runningSnapshot := fun r h _ => by cases h; rfl

/-- The step of it, and a host's turn with nothing scheduled. -/
theorem witness_RunningCommandCompletes :
    (heldBy .gauss5 row).unanswered = false ∧
    ((running .gauss5 row).turn = .engine .served ∧ (running .gauss5 row).engine = .busy (heldBy .gauss5 row) ∧
      row.params.admits (heldBy .gauss5 row).shadow.start (heldBy .gauss5 row).shadow.stop = true ∧
      goesOn (step (running .gauss5 row)) = true) ∧
    (row.turn = .host ∧ row.later = [] ∧ goesOn (step row) = true) := by
  decide +kernel

theorem witness_EveryStepKeepsMemoryCanonical :
    row.mem.wf = true ∧ goesOn (step (hostAt (.memWrite 0x2000#32 0#8) row)) = true := by decide +kernel

/-- A good state whose host is about to launch a command that it may launch. -/
theorem witness_GoodMachineGoesOn : (hostAt (cmdWrite 1#32) row).hostDefined := by
  intro _ op rest h
  cases h
  exact ⟨by decide, fun _ _ _ => by decide⟩

theorem witness_ParametersNeverChange : goesOn (step row) = true := by decide +kernel

end Sys2Proof.Tests
end

/-! # What a step does to the flags of STATUS, and what a reset leaves

`StatusFlags` holds the flags of STATUS as one value. Each operation of the model has one equation about it; `FlagEvent`
then says once what a step can do to the flags and why, and the statements about BUSY, DONE, ERR and OVR read it off. -/

namespace Sys2Proof.Machine

/-! ### The step on a given event -/

/-- The step on the host's turn is its first transaction, taken from the list. -/
theorem step_of_hostDoes {s : State} {op : HostOp} {rest : List HostOp} (h : Rule.hostDoes s op rest) :
    step s = mapNext State.endTurn (hostOp exec op { s with hostOps := rest }) := by
  obtain ⟨hturn, hops⟩ := h
  simp only [step, stepWith, event, hturn, hostTurn, hops]

theorem step_of_resetPin {s : State} (h : s.turn = .resetPin) : step s = .next s.resetBlock.endTurn := by
  simp only [step, stepWith, event, h, mapNext]

theorem writeReg_ctrl (run : Instr → State → Outcome) (d : Word) (s : State) :
    writeReg run .ctrl d s = .next (s.writeCtrl d) := rfl
theorem writeReg_status (run : Instr → State → Outcome) (d : Word) (s : State) :
    writeReg run .status d s = .next (s.writeStatus d) := rfl
theorem writeReg_cmd (run : Instr → State → Outcome) (d : Word) (s : State) :
    writeReg run .cmd d s = writeCmd run d s := rfl

/-- A CTRL write with SRST is the reset (R101, R232). -/
theorem State.writeCtrl_of_srst {s : State} {d : Word} (hd : d.getLsbD 1 = true) : s.writeCtrl d = s.resetBlock :=
  if_pos hd

/-- A register write that is answered is 32 bits wide (R53 (b)) and does what its register does. -/
theorem hostOp_regWrite_eq_next {off : Offset} {size : Nat} {d : Word} {s t : State}
    (h : hostOp exec (.regWrite off size d) s = .next t) : size = 4 ∧ writeReg exec (regAt off) d s = .next t := by
  simp only [hostOp] at h
  split at h
  · next hacc => exact ⟨by simp_all [wellFormedAccess], h⟩
  · cases h

/-- A step that takes a register write from the host's list. -/
theorem step_regWrite {s t : State} {off : Offset} {size : Nat} {d : Word} {rest : List HostOp}
    (hdo : Rule.hostDoes s (.regWrite off size d) rest) (h : step s = .next t) :
    ∃ u, writeReg exec (regAt off) d { s with hostOps := rest } = .next u ∧ t = u.endTurn := by
  rw [step_of_hostDoes hdo] at h
  obtain ⟨u, hu, rfl⟩ := mapNext_eq_next.1 h
  exact ⟨u, (hostOp_regWrite_eq_next hu).2, rfl⟩

/-- The step of a soft reset: CTRL is at offset 0x04, bit 1 is SRST (R101, R232). -/
theorem step_of_softReset {s : State} {off : Offset} {d : Word} {rest : List HostOp}
    (hdo : Rule.hostDoes s (.regWrite off 4 d) rest) (hacc : wellFormedAccess off 4 = true) (hreg : regAt off = .ctrl)
    (hd : d.getLsbD 1 = true) : step s = .next (State.resetBlock { s with hostOps := rest }).endTurn := by
  simp only [step_of_hostDoes hdo, hostOp, hacc, if_true, hreg, writeReg_ctrl, State.writeCtrl_of_srst hd, mapNext]

/-! ### BUSY, the engine's state -/

theorem State.busy_of_idle {s : State} (h : s.engine = .idle) : s.busy = false := by simp [State.busy, h]

theorem State.busy_of_running {s : State} {r : Running} (h : s.engine = .busy r) : s.busy = true := by
  simp [State.busy, h]

theorem State.busy_congr {s t : State} (h : t.engine = s.engine) : t.busy = s.busy := by simp [State.busy, h]

/-- Noting a race leaves the engine running or IDLE as it was. -/
theorem State.hostWritesMem_busy (s : State) (a : Nat) (v : Byte) : (s.hostWritesMem a v).busy = s.busy := by
  cases he : s.engine <;> simp [State.busy, he, Engine.noteHostWrite]

/-! ### The flags of STATUS as one value -/

/-- What STATUS shows (R26). -/
structure StatusFlags where
  busy : Bool
  done : Bool
  err : Bool
  ovr : Bool
  errcode : BitVec 4

/-- The flags of a state; BUSY is read from the engine (R33). -/
def State.flags (s : State) : StatusFlags := ⟨s.busy, s.done, s.err, s.ovr, s.errcode⟩

/-- Every flag at its reset value (R44). -/
@[simp] def StatusFlags.cleared : StatusFlags := ⟨false, false, false, false, 0#4⟩

/-- After accept (R106). -/
@[simp] def StatusFlags.accepted (f : StatusFlags) : StatusFlags := ⟨true, false, false, f.ovr, 0#4⟩

/-- After a successful completion (R108). -/
@[simp] def StatusFlags.completed (f : StatusFlags) : StatusFlags := { f with busy := false, done := true }

/-- After a completion with the error `e` (R203). -/
@[simp] def StatusFlags.failed (f : StatusFlags) (e : ErrorCode) : StatusFlags := ⟨false, true, true, f.ovr, e.code⟩

/-- After a CMD write while BUSY (R36). -/
@[simp] def StatusFlags.overrun (f : StatusFlags) : StatusFlags := { f with ovr := true }

/-- After the write of `d` to STATUS (R102). -/
@[simp] def StatusFlags.written (f : StatusFlags) (d : Word) : StatusFlags where
  busy := f.busy
  done := f.done && !d.getLsbD 1
  err := f.err && !d.getLsbD 2
  ovr := f.ovr && !d.getLsbD 3
  errcode := if d.getLsbD 2 then 0#4 else f.errcode

/-- The flags follow the fields, one by one. -/
theorem State.flags_eq_iff {s : State} {f : StatusFlags} :
    s.flags = f ↔ s.busy = f.busy ∧ s.done = f.done ∧ s.err = f.err ∧ s.ovr = f.ovr ∧ s.errcode = f.errcode := by
  cases f
  simp [State.flags]

@[simp] theorem State.flags_busy (s : State) : s.flags.busy = s.busy := rfl
@[simp] theorem State.flags_done (s : State) : s.flags.done = s.done := rfl
@[simp] theorem State.flags_err (s : State) : s.flags.err = s.err := rfl
@[simp] theorem State.flags_ovr (s : State) : s.flags.ovr = s.ovr := rfl
@[simp] theorem State.flags_errcode (s : State) : s.flags.errcode = s.errcode := rfl

/-! ### What each operation does to the flags -/

@[simp] theorem State.withHostOps_flags (s : State) (ops : List HostOp) :
    State.flags { s with hostOps := ops } = s.flags := rfl
@[simp] theorem State.writeBase_flags (s : State) (d : Word) : (s.writeBase d).flags = s.flags := rfl
@[simp] theorem State.writeWidth_flags (s : State) (d : Word) : (s.writeWidth d).flags = s.flags := rfl
@[simp] theorem State.writeHeight_flags (s : State) (d : Word) : (s.writeHeight d).flags = s.flags := rfl
@[simp] theorem State.hostReadsReg_flags (s : State) (r : Reg) : (s.hostReadsReg r).flags = s.flags := rfl
@[simp] theorem State.againFirst_flags (s : State) (op : HostOp) : (s.againFirst op).flags = s.flags := rfl
@[simp] theorem State.setOverrun_flags (s : State) : s.setOverrun.flags = s.flags.overrun := rfl
@[simp] theorem State.completeWithError_flags (s : State) (e : ErrorCode) :
    (s.completeWithError e).flags = s.flags.failed e := rfl
@[simp] theorem State.busError_flags (s : State) (r : Running) : (s.busError r).flags = s.flags.failed .bus := rfl
@[simp] theorem State.accept_flags (s : State) (w : Word) (build : Image → Tables) :
    (s.accept w build).flags = s.flags.accepted := rfl
@[simp] theorem State.writeStatus_flags (s : State) (d : Word) : (s.writeStatus d).flags = s.flags.written d := rfl

@[simp] theorem State.endTurn_flags (s : State) : s.endTurn.flags = s.flags := by
  simp [State.flags, State.busy_congr s.endTurn_engine]

@[simp] theorem State.hostReadsMem_flags (s : State) (a : Nat) : (s.hostReadsMem a).flags = s.flags := by
  simp [State.flags, State.busy_congr (s.hostReadsMem_engine a)]

@[simp] theorem State.hostWritesMem_flags (s : State) (a : Nat) (v : Byte) :
    (s.hostWritesMem a v).flags = s.flags := by
  simp [State.flags, State.hostWritesMem_busy]

@[simp] theorem State.resetBlock_flags (s : State) : s.resetBlock.flags = .cleared := by
  simp [State.flags, State.busy_of_idle s.resetBlock_engine]

@[simp] theorem State.complete_flags (s : State) (r : Running) (out : Nat → Nat → Rgb) :
    (s.complete r out).flags = s.flags.completed := by
  simp [State.flags, State.busy_of_idle (s.complete_engine r out)]

/-- A running engine that stalls keeps every flag. -/
theorem State.stall_flags {s : State} {r q : Running} (h : s.engine = .busy q) : (s.stall r).flags = s.flags := by
  simp [State.flags, State.busy_of_running h, State.busy_of_running (s.stall_engine r)]

/-! ### What each event does to the flags -/

/-- Both resets clear every flag (R44). -/
theorem flags_of_isReset {s t : State} (hr : Rule.isReset s) (h : step s = .next t) : t.flags = .cleared := by
  rcases hr with hpin | ⟨_, rest, hdo, off, d, rfl, hreg, hd⟩
  · rw [step_of_resetPin hpin] at h
    cases h
    simp
  · obtain ⟨u, hu, rfl⟩ := step_regWrite hdo h
    rw [hreg, writeReg_ctrl, State.writeCtrl_of_srst hd] at hu
    cases hu
    simp

/-- A write of STATUS clears the flags whose bits it carries (R102). -/
theorem flags_of_statusWrite {s t : State} {off : Offset} {d : Word} {rest : List HostOp}
    (hdo : Rule.hostDoes s (.regWrite off 4 d) rest) (hreg : regAt off = .status) (h : step s = .next t) :
    t.flags = s.flags.written d := by
  obtain ⟨u, hu, rfl⟩ := step_regWrite hdo h
  rw [hreg, writeReg_status] at hu
  cases hu
  simp

/-- What a CMD write does to the flags: an overrun, a refused issue or an accept (R105). -/
theorem flags_of_writesCmd {s t : State} {w : Word} (hw : Rule.writesCmd s w) (h : step s = .next t) :
    (s.busy = true ∧ t.flags = s.flags.overrun) ∨
    (∃ e, s.engine = .idle ∧ issueCheck s.params w s.base s.width s.height = some e ∧ t.flags = s.flags.failed e) ∨
    (s.engine = .idle ∧ issueCheck s.params w s.base s.width s.height = none ∧ t.flags = s.flags.accepted) := by
  obtain ⟨off, rest, hdo, hreg⟩ := hw
  obtain ⟨u, hu, rfl⟩ := step_regWrite hdo h
  rw [hreg, writeReg_cmd] at hu
  obtain ⟨build, hissue, -⟩ := writeCmd_cases (s := { s with hostOps := rest }) hdo.1 hu
  rcases issue_cases hissue with ⟨r, hr, rfl⟩ | ⟨e, hi, he, rfl⟩ | ⟨hi, hn, -, rfl⟩
  · exact .inl ⟨State.busy_of_running hr, by simp⟩
  · exact .inr (.inl ⟨e, hi, he, by simp⟩)
  · exact .inr (.inr ⟨hi, hn, by simp⟩)

theorem flags_of_overrun {s t : State} {w : Word} (hw : Rule.writesCmd s w) (hb : s.busy = true)
    (h : step s = .next t) : t.flags = s.flags.overrun := by
  rcases flags_of_writesCmd hw h with ⟨-, hf⟩ | ⟨_, hi, -⟩ | ⟨hi, -⟩
  · exact hf
  all_goals simp [State.busy_of_idle hi] at hb

theorem flags_of_refusesIssue {s t : State} {e : ErrorCode} (hr : Rule.refusesIssue s e) (h : step s = .next t) :
    t.flags = s.flags.failed e := by
  obtain ⟨w, hw, hi, he⟩ := hr
  rcases flags_of_writesCmd hw h with ⟨hb, -⟩ | ⟨e', -, he', hf⟩ | ⟨-, hn, -⟩
  · simp [State.busy_of_idle hi] at hb
  · simpa [Option.some.inj (he.symm.trans he')] using hf
  · simp [he] at hn

theorem flags_of_accepts {s t : State} (ha : Rule.accepts s) (h : step s = .next t) :
    t.flags = s.flags.accepted := by
  obtain ⟨w, hw, hi, hn⟩ := ha
  rcases flags_of_writesCmd hw h with ⟨hb, -⟩ | ⟨_, -, he, -⟩ | ⟨-, -, hf⟩
  · simp [State.busy_of_idle hi] at hb
  · simp [hn] at he
  · exact hf

/-- What a turn of a running engine does to the flags: nothing, a completion that memory served, or a bus error
(R107, R202). -/
theorem flags_of_engineTurn {s t : State} {a : BusAnswer} {r : Running} (hturn : s.turn = .engine a)
    (hr : s.engine = .busy r) (h : step s = .next t) :
    t.flags = s.flags ∨
    ((a = .served ∧ s.params.admits r.shadow.start r.shadow.stop = true) ∧ t.flags = s.flags.completed) ∨
    (¬(a = .served ∧ s.params.admits r.shadow.start r.shadow.stop = true) ∧ t.flags = s.flags.failed .bus) := by
  obtain ⟨u, rfl, hu⟩ := step_cases h
  rw [State.endTurn_flags]
  rcases hu with ⟨ht, -⟩ | ⟨_, _, ht, -⟩ | ⟨_, -, rfl⟩ | ⟨_, _, i, -, -, -, hexec⟩ | ⟨ht, -⟩
  · simp [hturn] at ht
  · simp [hturn] at ht
  · exact .inl rfl
  · rcases exec_cases hexec with ⟨ht, -⟩ | ⟨a', r', ht, hr', -, hstep⟩ | ⟨-, rfl⟩
    · simp [hturn] at ht
    · obtain rfl : a = a' := by simpa [hturn] using ht
      obtain rfl : r = r' := by simpa [hr] using hr'
      obtain ⟨-, ⟨-, rfl⟩ | ⟨-, ha, hadm, rfl⟩ | ⟨-, herr, rfl⟩ | ⟨-, -, rfl⟩⟩ := engineStep_cases hstep
      · exact .inl rfl
      · exact .inr (.inl ⟨⟨ha, hadm⟩, by simp⟩)
      · have hnot : ¬(a = .served ∧ s.params.admits r.shadow.start r.shadow.stop = true) := fun hc => by
          have := (s.params.answer_eq_served r.shadow a).2 hc.symm
          simp [herr] at this
        exact .inr (.inr ⟨hnot, by simp⟩)
      · exact .inl (State.stall_flags hr)
    · exact .inl rfl
  · simp [hturn] at ht

/-! ### Everything a step can do to the flags -/

/-- Why the flags of `t` are what they are, after a step from `s`. -/
inductive FlagEvent (s t : State) : Prop where
  | kept (hf : t.flags = s.flags)
  | reset (hcause : Rule.isReset s) (hf : t.flags = .cleared)
  | statusWrite (d : Word) (hcause : ∀ b, d.getLsbD b = true → Rule.clearsStatusBit s b)
      (hf : t.flags = s.flags.written d)
  | overrun (w : Word) (hcause : Rule.writesCmd s w) (hbusy : s.busy = true) (hf : t.flags = s.flags.overrun)
  | refused (e : ErrorCode) (hcause : Rule.refusesIssue s e) (hf : t.flags = s.flags.failed e)
  | accepted (hcause : Rule.accepts s) (hf : t.flags = s.flags.accepted)
  | completed (hcause : Rule.engineRuns s) (hf : t.flags = s.flags.completed)
  | busError (hcause : Rule.engineRuns s) (hf : t.flags = s.flags.failed .bus)

/-- A register write of the host is one of the events. -/
theorem flagEvent_of_regWrite {s t : State} {off : Offset} {d : Word} {rest : List HostOp}
    (hdo : Rule.hostDoes s (.regWrite off 4 d) rest) (h : step s = .next t) : FlagEvent s t := by
  obtain ⟨u, hu, rfl⟩ := step_regWrite hdo h
  rcases writeReg_cases hu with ⟨-, rfl⟩ | ⟨hreg, hd, -⟩ | ⟨-, -, rfl⟩ | ⟨hreg, -⟩ | ⟨-, rfl⟩ | ⟨-, rfl⟩ | ⟨-, rfl⟩ |
    ⟨hreg, -⟩
  case inr.inl =>
    have hcause : Rule.isReset s := .inr ⟨_, rest, hdo, off, d, rfl, hreg, hd⟩
    exact .reset hcause (flags_of_isReset hcause h)
  case inr.inr.inl => exact .kept (State.endTurn_flags _)
  case inr.inr.inr.inl =>
    exact .statusWrite d (fun b hb => ⟨off, d, rest, hdo, hreg, hb⟩) (flags_of_statusWrite hdo hreg h)
  case inr.inr.inr.inr.inr.inr.inr =>
    have hw : Rule.writesCmd s d := ⟨off, rest, hdo, hreg⟩
    rcases flags_of_writesCmd hw h with ⟨hb, hf⟩ | ⟨e, hi, he, hf⟩ | ⟨hi, hn, hf⟩
    · exact .overrun d hw hb hf
    · exact .refused e ⟨d, hw, hi, he⟩ hf
    · exact .accepted ⟨d, hw, hi, hn⟩ hf
  all_goals exact .kept (by simp)

/-- Every transaction of the host is one of the events; all but register writes keep the flags. -/
theorem flagEvent_of_hostDoes {s t : State} {op : HostOp} {rest : List HostOp} (hdo : Rule.hostDoes s op rest)
    (h : step s = .next t) : FlagEvent s t := by
  have hstep := h
  rw [step_of_hostDoes hdo] at hstep
  obtain ⟨u, hu, rfl⟩ := mapNext_eq_next.1 hstep
  rcases hostOp_cases hu with ⟨_, _, -, rfl⟩ | ⟨off, size, d, rfl, -⟩ | ⟨_, _, _, -, -, rfl⟩ | ⟨_, _, _, -, -, rfl⟩ |
    ⟨-, -, rfl⟩ | ⟨-, -, rfl⟩ | ⟨_, -, rfl⟩ | ⟨_, _, -, rfl⟩
  case inr.inl =>
    obtain ⟨rfl, -⟩ := hostOp_regWrite_eq_next hu
    exact flagEvent_of_regWrite hdo h
  all_goals exact .kept (by simp)

/-- Every step is one of the events. -/
theorem step_flagEvent {s t : State} (h : step s = .next t) : FlagEvent s t := by
  obtain ⟨u, rfl, ⟨-, -, rfl⟩ | ⟨op, rest, hturn, hops, -⟩ | ⟨_, -, rfl⟩ | ⟨a, r, _, hturn, hr, -⟩ | ⟨hturn, -⟩⟩ :=
    step_cases h
  · exact .kept (by simp)
  · exact flagEvent_of_hostDoes ⟨hturn, hops⟩ h
  · exact .kept (by simp)
  · have hcause : Rule.engineRuns s := ⟨⟨a, hturn⟩, State.busy_of_running hr⟩
    rcases flags_of_engineTurn hturn hr h with hf | ⟨-, hf⟩ | ⟨-, hf⟩
    · exact .kept hf
    · exact .completed hcause hf
    · exact .busError hcause hf
  · exact .reset (.inl hturn) (flags_of_isReset (.inl hturn) h)

/-- A turn of a running engine that ends the command sets DONE (R34, R203). -/
theorem done_of_engineRuns {s t : State} (hrun : Rule.engineRuns s) (h : step s = .next t) (hb : t.busy = false) :
    t.done = true := by
  obtain ⟨⟨a, hturn⟩, hbusy⟩ := hrun
  cases hr : s.engine with
  | idle => simp [State.busy_of_idle hr] at hbusy
  | busy r =>
    rcases flags_of_engineTurn hturn hr h with hf | ⟨-, hf⟩ | ⟨-, hf⟩
    · simp [(State.flags_eq_iff.1 hf).1, hbusy] at hb
    · exact (State.flags_eq_iff.1 hf).2.1
    · exact (State.flags_eq_iff.1 hf).2.1

end Sys2Proof.Machine

/-! # BUSY, DONE, ERR and OVR over every step (R33 to R36)

A flag rises or falls only in the events named; in every other event the equation on the flags contradicts the change. -/

namespace Sys2Proof.Machine

/-! ### What raises and what clears each flag -/

theorem accepts_of_busy_rises {s t : State} (h : step s = .next t) (h0 : s.busy = false) (h1 : t.busy = true) :
    Rule.accepts s := by
  cases step_flagEvent h with
  | accepted hcause _ => exact hcause
  | kept hf | reset _ hf | statusWrite _ _ hf | overrun _ _ _ hf | refused _ _ hf | completed _ hf | busError _ hf =>
    simp_all [State.flags_eq_iff]

theorem engineRuns_or_isReset_of_busy_falls {s t : State} (h : step s = .next t) (h1 : s.busy = true)
    (h0 : t.busy = false) : Rule.engineRuns s ∨ Rule.isReset s := by
  cases step_flagEvent h with
  | completed hcause _ | busError hcause _ => exact .inl hcause
  | reset hcause _ => exact .inr hcause
  | refused _ hcause _ =>
    obtain ⟨_, -, hi, -⟩ := hcause
    simp [State.busy_of_idle hi] at h1
  | kept hf | statusWrite _ _ hf | overrun _ _ _ hf | accepted _ hf => simp_all [State.flags_eq_iff]

theorem engineRuns_or_refusesIssue_of_done_rises {s t : State} (h : step s = .next t) (h0 : s.done = false)
    (h1 : t.done = true) : (Rule.engineRuns s ∧ t.busy = false) ∨ ∃ e, Rule.refusesIssue s e := by
  cases step_flagEvent h with
  | completed hcause hf | busError hcause hf => exact .inl ⟨hcause, (State.flags_eq_iff.1 hf).1⟩
  | refused e hcause _ => exact .inr ⟨e, hcause⟩
  | kept hf | reset _ hf | statusWrite _ _ hf | overrun _ _ _ hf | accepted _ hf => simp_all [State.flags_eq_iff]

theorem cause_of_done_falls {s t : State} (h : step s = .next t) (h1 : s.done = true) (h0 : t.done = false) :
    Rule.clearsStatusBit s 1 ∨ Rule.accepts s ∨ Rule.isReset s := by
  cases step_flagEvent h with
  | statusWrite d hcause hf => exact .inl (hcause 1 (by simp_all [State.flags_eq_iff]))
  | accepted hcause _ => exact .inr (.inl hcause)
  | reset hcause _ => exact .inr (.inr hcause)
  | kept hf | overrun _ _ _ hf | refused _ _ hf | completed _ hf | busError _ hf => simp_all [State.flags_eq_iff]

theorem cause_of_err_rises {s t : State} (h : step s = .next t) (h0 : s.err = false) (h1 : t.err = true) :
    t.done = true ∧ ((Rule.engineRuns s ∧ t.errcode = 6#4) ∨ ∃ e, Rule.refusesIssue s e ∧ t.errcode = e.code) := by
  cases step_flagEvent h with
  | busError hcause hf =>
    obtain ⟨-, hdone, -, -, hcode⟩ := State.flags_eq_iff.1 hf
    exact ⟨hdone, .inl ⟨hcause, hcode⟩⟩
  | refused e hcause hf =>
    obtain ⟨-, hdone, -, -, hcode⟩ := State.flags_eq_iff.1 hf
    exact ⟨hdone, .inr ⟨e, hcause, hcode⟩⟩
  | kept hf | reset _ hf | statusWrite _ _ hf | overrun _ _ _ hf | accepted _ hf | completed _ hf =>
    simp_all [State.flags_eq_iff]

theorem cause_of_err_falls {s t : State} (h : step s = .next t) (h1 : s.err = true) (h0 : t.err = false) :
    Rule.clearsStatusBit s 2 ∨ Rule.accepts s ∨ Rule.isReset s := by
  cases step_flagEvent h with
  | statusWrite d hcause hf => exact .inl (hcause 2 (by simp_all [State.flags_eq_iff]))
  | accepted hcause _ => exact .inr (.inl hcause)
  | reset hcause _ => exact .inr (.inr hcause)
  | kept hf | overrun _ _ _ hf | refused _ _ hf | completed _ hf | busError _ hf => simp_all [State.flags_eq_iff]

theorem writesCmd_of_ovr_rises {s t : State} (h : step s = .next t) (h0 : s.ovr = false) (h1 : t.ovr = true) :
    s.busy = true ∧ ∃ w, Rule.writesCmd s w := by
  cases step_flagEvent h with
  | overrun w hcause hbusy _ => exact ⟨hbusy, w, hcause⟩
  | kept hf | reset _ hf | statusWrite _ _ hf | refused _ _ hf | accepted _ hf | completed _ hf | busError _ hf =>
    simp_all [State.flags_eq_iff]

theorem cause_of_ovr_falls {s t : State} (h : step s = .next t) (h1 : s.ovr = true) (h0 : t.ovr = false) :
    Rule.clearsStatusBit s 3 ∨ Rule.isReset s := by
  cases step_flagEvent h with
  | statusWrite d hcause hf => exact .inl (hcause 3 (by simp_all [State.flags_eq_iff]))
  | reset hcause _ => exact .inr hcause
  | kept hf | overrun _ _ _ hf | refused _ _ hf | accepted _ hf | completed _ hf | busError _ hf =>
    simp_all [State.flags_eq_iff]

/-! ### What each cause leaves -/

/-- A write of STATUS with bit `b` = 1 writes some word with that bit. -/
theorem flags_of_clearsStatusBit {s t : State} {b : Nat} (hc : Rule.clearsStatusBit s b) (h : step s = .next t) :
    ∃ d : Word, d.getLsbD b = true ∧ t.flags = s.flags.written d := by
  obtain ⟨_, d, _, hdo, hreg, hd⟩ := hc
  exact ⟨d, hd, flags_of_statusWrite hdo hreg h⟩

theorem done_cleared {s t : State} (hc : Rule.clearsStatusBit s 1 ∨ Rule.accepts s ∨ Rule.isReset s)
    (h : step s = .next t) : t.done = false := by
  rw [← State.flags_done]
  rcases hc with hw | ha | hr
  · obtain ⟨d, hd, hf⟩ := flags_of_clearsStatusBit hw h
    simp [hf, hd]
  · simp [flags_of_accepts ha h]
  · simp [flags_of_isReset hr h]

theorem err_cleared {s t : State} (hc : Rule.clearsStatusBit s 2 ∨ Rule.accepts s ∨ Rule.isReset s)
    (h : step s = .next t) : t.err = false ∧ t.errcode = 0#4 := by
  rw [← State.flags_err, ← State.flags_errcode]
  rcases hc with hw | ha | hr
  · obtain ⟨d, hd, hf⟩ := flags_of_clearsStatusBit hw h
    simp [hf, hd]
  · simp [flags_of_accepts ha h]
  · simp [flags_of_isReset hr h]

theorem ovr_cleared {s t : State} (hc : Rule.clearsStatusBit s 3 ∨ Rule.isReset s) (h : step s = .next t) :
    t.ovr = false := by
  rw [← State.flags_ovr]
  rcases hc with hw | hr
  · obtain ⟨d, hd, hf⟩ := flags_of_clearsStatusBit hw h
    simp [hf, hd]
  · simp [flags_of_isReset hr h]

/-- From a state of the invariant, an engine's turn that ends the command reports code 6 unless memory served it all: the
invariant says that ERR and ERRCODE are 0 while BUSY. -/
theorem err_of_engineTurn_ends {s t : State} {a : BusAnswer} {r : Running} (hinv : s.Inv) (hturn : s.turn = .engine a)
    (hr : s.engine = .busy r) (h : step s = .next t) (hend : t.busy = false) :
    if a = .served ∧ s.params.admits r.shadow.start r.shadow.stop = true then t.err = false ∧ t.errcode = 0#4
    else t.err = true ∧ t.errcode = 6#4 := by
  have herr : s.err = false := (hinv.runningNoReport r hr).2
  have hcode : s.errcode = 0#4 := hinv.noErrorNoCode herr
  have hbusy : s.busy = true := State.busy_of_running hr
  rcases flags_of_engineTurn hturn hr h with hf | ⟨hserved, hf⟩ | ⟨hnot, hf⟩
  · simp_all [State.flags_eq_iff]
  · rw [if_pos hserved]
    simp_all [State.flags_eq_iff]
  · rw [if_neg hnot]
    simp_all [State.flags_eq_iff, ErrorCode.code]

/-! ### The statements -/

/-- Settles O19: BUSY changes only in the events that R33 names, by the events of a step. -/
theorem busyFollowsAcceptAndCompletion : Obligations.BusyFollowsAcceptAndCompletion := by
  intro s t h
  refine ⟨accepts_of_busy_rises h, fun h1 h0 => ?_, fun ha => ?_, fun hr => ?_⟩
  · exact (engineRuns_or_isReset_of_busy_falls h h1 h0).imp_left fun hrun => ⟨hrun, done_of_engineRuns hrun h h0⟩
  · exact (State.flags_eq_iff.1 (flags_of_accepts ha h)).1
  · exact (State.flags_eq_iff.1 (flags_of_isReset hr h)).1

/-- Settles O20: DONE is set by exactly the completions and cleared by exactly the three causes of R34. -/
theorem doneFollowsCompletion : Obligations.DoneFollowsCompletion := by
  intro s t h
  refine ⟨engineRuns_or_refusesIssue_of_done_rises h, cause_of_done_falls h, ?_, fun hc => done_cleared hc h⟩
  rintro (⟨hrun, hb⟩ | ⟨e, hr⟩)
  · exact done_of_engineRuns hrun h hb
  · exact (State.flags_eq_iff.1 (flags_of_refusesIssue hr h)).2.1

/-- Settles O21: ERR and ERRCODE move together, by the events of a step; the last clause is the engine's turn alone. -/
theorem errFollowsErrorCompletion : Obligations.ErrFollowsErrorCompletion := by
  intro s t h
  refine ⟨cause_of_err_rises h, cause_of_err_falls h, fun hc => err_cleared hc h, fun e hr => ?_,
    fun r a hinv hturn hr hend => err_of_engineTurn_ends hinv hturn hr h hend⟩
  obtain ⟨-, -, herr, -, hcode⟩ := State.flags_eq_iff.1 (flags_of_refusesIssue hr h)
  exact ⟨herr, hcode⟩

/-- Settles O22: only a CMD write while BUSY sets OVR, and an accept is not among what clears it (R36). -/
theorem overrunIsSticky : Obligations.OverrunIsSticky := by
  intro s t h
  refine ⟨writesCmd_of_ovr_rises h, fun hb ⟨w, hw⟩ => ?_, cause_of_ovr_falls h, fun hc => ovr_cleared hc h⟩
  obtain ⟨-, -, -, hovr, -⟩ := State.flags_eq_iff.1 (flags_of_overrun hw hb h)
  exact hovr

end Sys2Proof.Machine

/-! # What a reset leaves (R44) -/

namespace Sys2Proof.Machine

/-- The reset changes the block and the region's bytes, and nothing of the host's or the schedule's. -/
theorem resetFrame_resetBlock (s : State) : Rule.resetFrame s s.resetBlock := by
  cases he : s.engine <;> simp [Rule.resetFrame, State.resetBlock, he, State.resetRegisters, State.loseRegion]

/-- The frame lets the turn pass on. -/
theorem resetFrame_endTurn {s t : State} (h : Rule.resetFrame s t) : Rule.resetFrame s t.endTurn := by
  cases hl : t.later <;> simp only [Rule.resetFrame, State.endTurn, hl] at h ⊢ <;> rw [h]

theorem resetMemory_resetBlock (s : State) : Rule.resetMemory s s.resetBlock :=
  ⟨s.resetBlock_mem_idle, fun r hr a ha => by rw [s.resetBlock_mem_busy r hr, s.loseRegion_read_other r.shadow a ha]⟩

theorem State.statusWord_of_cleared {s : State} (h : s.flags = .cleared) : s.statusWord = 0#32 := by
  obtain ⟨hbusy, hdone, herr, hovr, hcode⟩ := State.flags_eq_iff.1 h
  simp [State.statusWord, hbusy, hdone, herr, hovr, hcode]

theorem State.ctrlWord_of_ie {s : State} (h : s.ie = false) : s.ctrlWord = 0#32 := by simp [State.ctrlWord, h]

/-- What the state holds and shows once the block is reset and the turn has passed on. -/
theorem reset_outcome (s : State) :
    Rule.resetFrame s s.resetBlock.endTurn ∧ Rule.resetMemory s s.resetBlock.endTurn ∧
    s.resetBlock.endTurn.hostOps = s.hostOps ∧ s.resetBlock.endTurn.irq = false ∧
    s.resetBlock.endTurn.statusWord = 0#32 ∧ s.resetBlock.endTurn.ctrlWord = 0#32 := by
  refine ⟨resetFrame_endTurn (resetFrame_resetBlock s), ?_, by simp, by simp [State.irq],
    State.statusWord_of_cleared (by simp), State.ctrlWord_of_ie (by simp)⟩
  simpa [Rule.resetMemory, Rule.keepsOthers] using resetMemory_resetBlock s

/-- Settles O39: the pin and the soft reset run the same reset of the block, whose outcome is `reset_outcome`. -/
theorem resetLeavesTheResetValues : Obligations.ResetLeavesTheResetValues := by
  refine ⟨fun s hpin => ⟨_, step_of_resetPin hpin, reset_outcome s⟩, fun s d rest hdo hd => ?_, ?_⟩
  · exact ⟨_, step_of_softReset hdo (by decide) (by decide) hd, reset_outcome { s with hostOps := rest }⟩
  · exact ⟨rfl, by decide, by decide, rfl, rfl, rfl, rfl, rfl, rfl⟩

end Sys2Proof.Machine

/-! # Which words are commands, and what a word that is none does (R71, R73) -/

namespace Sys2Proof

/-! ### The decoder -/

theorem decode_encode (i : Instr) : decode (encode i) = some i := by
  cases i <;> rfl

theorem eq_encode_of_decode {w : Word} {i : Instr} (h : decode w = some i) : w = encode i := by
  unfold decode at h
  split_ifs at h with h1 h2 h3 <;> cases h
  · exact h1
  · exact h2
  · exact h3

/-- The word of a command is the only word that decodes to it (R71). -/
theorem decode_eq_some_iff {w : Word} {i : Instr} : decode w = some i ↔ w = encode i :=
  ⟨eq_encode_of_decode, fun h => h ▸ decode_encode i⟩

/-- The illegal words are the words of no command (R73). -/
theorem decode_eq_none_iff {w : Word} :
    decode w = none ↔ w ≠ 0x00000001#32 ∧ w ≠ 0x00000002#32 ∧ w ≠ 0x00000003#32 := by
  simp only [Option.eq_none_iff_forall_ne_some, ne_eq, decode_eq_some_iff]
  exact ⟨fun h => ⟨h .gauss5, h .histeq, h .sobel⟩, fun ⟨h1, h2, h3⟩ i => by cases i <;> assumption⟩

/-- Settles O1: each legal word is the encoding of its command, and the illegal words are the rest. -/
theorem decoderSelectsOnTheWholeWord : Obligations.DecoderSelectsOnTheWholeWord := fun _ =>
  ⟨decode_eq_some_iff, decode_eq_some_iff, decode_eq_some_iff, decode_eq_none_iff⟩

end Sys2Proof

namespace Sys2Proof.Machine

/-! ### The write of an illegal word -/

/-- The step that takes a register write inside the access contract (R53 (b)) does what its register does. -/
theorem step_of_regWrite {s : State} {off : Offset} {d : Word} {rest : List HostOp}
    (hdo : Rule.hostDoes s (.regWrite off 4 d) rest) (hacc : wellFormedAccess off 4 = true) :
    step s = mapNext State.endTurn (writeReg exec (regAt off) d { s with hostOps := rest }) := by
  simp only [step_of_hostDoes hdo, hostOp, hacc, if_true]

/-- CMD is at offset 0x0C (R23). -/
theorem step_of_cmdWrite {s : State} {w : Word} {rest : List HostOp}
    (hdo : Rule.hostDoes s (.regWrite 0x0C#6 4 w) rest) :
    step s = mapNext State.endTurn (writeCmd exec w { s with hostOps := rest }) :=
  step_of_regWrite hdo (by decide)

theorem writeCmd_of_illegal {run : Instr → State → Outcome} {w : Word} (hw : decode w = none) (s : State) :
    writeCmd run w s = issue w (fun _ => Tables.empty) s := by
  simp only [writeCmd, hw]

/-- While BUSY no word is looked at (R105). -/
theorem issue_of_busy {s : State} (h : s.busy = true) (w : Word) (build : Image → Tables) :
    issue w build s = .next s.setOverrun := by
  cases he : s.engine with
  | idle => simp [State.busy_of_idle he] at h
  | busy r => simp only [issue, he]

theorem issue_of_failedCheck {s : State} {w : Word} {e : ErrorCode} (hi : s.engine = .idle)
    (he : issueCheck s.params w s.base s.width s.height = some e) (build : Image → Tables) :
    issue w build s = .next (s.completeWithError e) := by
  simp only [issue, hi, he]

/-- The opcode is checked first (R201): an illegal word is reported whatever the operands. -/
theorem issueCheck_of_illegal {w : Word} (hw : decode w = none) (p : Params) (base : Word) (width height : Half) :
    issueCheck p w base width height = some .badOpcode := by
  obtain ⟨h1, h2, h3⟩ := decode_eq_none_iff.1 hw
  exact if_pos (by simp [h1, h2, h3])

/-- An IDLE engine stays IDLE, so an error at issue changes only the report. -/
theorem State.completeWithError_of_idle {s : State} (h : s.engine = .idle) (e : ErrorCode) :
    s.completeWithError e = { s with done := true, err := true, errcode := e.code } := by
  rw [State.completeWithError, ← h]

/-- Settles O5: an illegal word goes to issue, which drops it while BUSY and fails its first check while IDLE. -/
theorem illegalWordIsRefusedOrDropped : Obligations.IllegalWordIsRefusedOrDropped := by
  intro s w rest hdo h1 h2 h3
  have hw : decode w = none := decode_eq_none_iff.2 ⟨h1, h2, h3⟩
  have hstep : step s = mapNext State.endTurn (issue w (fun _ => Tables.empty) { s with hostOps := rest }) := by
    rw [step_of_cmdWrite hdo, writeCmd_of_illegal hw]
  refine ⟨fun hi => ?_, fun hb => ?_⟩
  · rw [issue_of_failedCheck (s := { s with hostOps := rest }) hi (issueCheck_of_illegal hw _ _ _ _),
      State.completeWithError_of_idle (s := { s with hostOps := rest }) hi] at hstep
    exact hstep
  · rw [issue_of_busy (s := { s with hostOps := rest }) hb] at hstep
    exact hstep

end Sys2Proof.Machine

/-! # The register window: reads and the writes that are no command (R100 to R104) -/

namespace Sys2Proof.Machine

/-! ### Offsets and accesses -/

/-- The contract of R53 (b), by numbers. -/
theorem wellFormedAccess_iff {off : Offset} {size : Nat} :
    wellFormedAccess off size = true ↔ size = 4 ∧ off.toNat % 4 = 0 := by
  simp [wellFormedAccess, ← BitVec.toNat_inj, BitVec.extractLsb'_toNat]

/-- The register at each aligned offset (R23). -/
theorem regAt_of_aligned {off : Offset} (h : off.toNat % 4 = 0) :
    (0x20 ≤ off.toNat ∧ regAt off = .reserved) ∨
    (off.toNat = 0x00 ∧ regAt off = .id) ∨ (off.toNat = 0x04 ∧ regAt off = .ctrl) ∨
    (off.toNat = 0x08 ∧ regAt off = .status) ∨ (off.toNat = 0x0C ∧ regAt off = .cmd) ∨
    (off.toNat = 0x10 ∧ regAt off = .base) ∨ (off.toNat = 0x14 ∧ regAt off = .width) ∨
    (off.toNat = 0x18 ∧ regAt off = .height) ∨ (off.toNat = 0x1C ∧ regAt off = .caps) := by
  revert off
  decide

/-! ### The words the host reads (R24 to R31) -/

theorem toNat_append_eq_add {m n : Nat} (x : BitVec m) (y : BitVec n) :
    (x ++ y).toNat = x.toNat * 2 ^ n + y.toNat := by
  rw [BitVec.toNat_append, Nat.shiftLeft_eq, Nat.mul_comm, Nat.two_pow_add_eq_or_of_lt y.isLt]

@[simp] theorem State.readReg_id_toNat (s : State) : (s.readReg .id).toNat = 0x4B490007 := rfl

@[simp] theorem State.readReg_ctrl_toNat (s : State) : (s.readReg .ctrl).toNat = s.ie.toNat := by
  rw [State.readReg, State.ctrlWord, toNat_append_eq_add, BitVec.toNat_ofBool]
  simp

@[simp] theorem State.readReg_status_toNat (s : State) : (s.readReg .status).toNat =
    256 * s.errcode.toNat + 8 * s.ovr.toNat + 4 * s.err.toNat + 2 * s.done.toNat + s.busy.toNat := by
  simp only [State.readReg, State.statusWord, toNat_append_eq_add, BitVec.toNat_ofNat, BitVec.toNat_ofBool]
  omega

@[simp] theorem State.readReg_cmd (s : State) : s.readReg .cmd = 0#32 := rfl
@[simp] theorem State.readReg_base (s : State) : s.readReg .base = s.base := rfl

@[simp] theorem State.readReg_width_toNat (s : State) : (s.readReg .width).toNat = s.width.toNat :=
  BitVec.toNat_setWidth_of_le (by decide)

@[simp] theorem State.readReg_height_toNat (s : State) : (s.readReg .height).toNat = s.height.toNat :=
  BitVec.toNat_setWidth_of_le (by decide)

@[simp] theorem State.readReg_caps_toNat (s : State) :
    (s.readReg .caps).toNat = 65536 * s.params.maxHeight.toNat + s.params.maxWidth.toNat := by
  simp only [State.readReg, Params.capsWord, toNat_append_eq_add]
  omega

@[simp] theorem State.readReg_reserved (s : State) : s.readReg .reserved = 0#32 := rfl

/-- The model reads what R100's table says at every aligned offset. -/
theorem State.readReg_regAt {off : Offset} (h : off.toNat % 4 = 0) (s : State) :
    s.readReg (regAt off) = BitVec.ofNat 32 (Rule.readValue s off.toNat) := by
  have hword : (s.readReg (regAt off)).toNat = Rule.readValue s off.toNat := by
    rcases regAt_of_aligned h with ⟨ho, hr⟩ | ⟨ho, hr⟩ | ⟨ho, hr⟩ | ⟨ho, hr⟩ | ⟨ho, hr⟩ | ⟨ho, hr⟩ | ⟨ho, hr⟩ |
      ⟨ho, hr⟩ | ⟨ho, hr⟩
    · simp only [hr, State.readReg_reserved, BitVec.toNat_ofNat, Rule.readValue]
      split_ifs <;> omega
    all_goals simp [hr, Rule.readValue, ho]
  rw [← hword, BitVec.ofNat_toNat, BitVec.setWidth_eq]

/-! ### Register reads (R100) -/

/-- A register access outside the contract is refused (R53 (b)). -/
theorem step_of_badRegRead {s : State} {off : Offset} {size : Nat} {rest : List HostOp}
    (hdo : Rule.hostDoes s (.regRead off size) rest) (hacc : wellFormedAccess off size = false) :
    step s = .refused .registerAccessNotWord := by
  simp only [step_of_hostDoes hdo, hostOp, hacc, mapNext, Bool.false_eq_true, if_false]

/-- No register shows the host's list. -/
theorem State.hostReadsReg_withHostOps (s : State) (ops : List HostOp) (r : Reg) :
    State.hostReadsReg { s with hostOps := ops } r = { s.hostReadsReg r with hostOps := ops } := by
  cases r <;> rfl

/-- A register read puts the register's word on the data returned, and does nothing else. -/
theorem answers_of_regRead {s : State} {off : Offset} {size : Nat} {rest : List HostOp}
    (hdo : Rule.hostDoes s (.regRead off size) rest) (hacc : wellFormedAccess off size = true) :
    Rule.answers s (s.hostReadsReg (regAt off)) rest := by
  simp only [Rule.answers, step_of_hostDoes hdo, hostOp, hacc, if_true, mapNext]
  rw [State.hostReadsReg_withHostOps]

/-- While BUSY of the flags only BUSY and OVR can read 1 (R100). -/
theorem readValue_status_of_busy {s : State} (hinv : s.Inv) (hb : s.busy = true) :
    Rule.readValue s 0x08 = 8 * s.ovr.toNat + 1 := by
  obtain ⟨r, hr⟩ : ∃ r, s.engine = .busy r := by
    cases he : s.engine with
    | idle => simp [State.busy_of_idle he] at hb
    | busy r => exact ⟨r, rfl⟩
  obtain ⟨hdone, herr⟩ := hinv.runningNoReport r hr
  simp [Rule.readValue, hdone, herr, hinv.noErrorNoCode herr, hb]

/-- Settles O6: the access contract decides between the refusal and the read, whose word is R100's. -/
theorem registerReadReturnsItsWord : Obligations.RegisterReadReturnsItsWord := by
  refine ⟨fun s off size rest hdo => ⟨fun hacc => ?_, fun hacc => ?_⟩, fun _ => readValue_status_of_busy⟩
  · rw [← s.readReg_regAt hacc.2]
    exact answers_of_regRead hdo (wellFormedAccess_iff.2 hacc)
  · exact step_of_badRegRead hdo (by simpa [← wellFormedAccess_iff] using hacc)

/-! ### Register writes (R101 to R104) -/

/-- A register write whose register answers with `t` answers with `t` and the transaction taken. -/
theorem answers_of_regWrite {s t : State} {off : Offset} {d : Word} {rest : List HostOp}
    (hdo : Rule.hostDoes s (.regWrite off 4 d) rest) (hoff : off.toNat % 4 = 0)
    (h : writeReg exec (regAt off) d { s with hostOps := rest } = .next { t with hostOps := rest }) :
    Rule.answers s t rest := by
  rw [Rule.answers, step_of_regWrite hdo (wellFormedAccess_iff.2 ⟨rfl, hoff⟩), h, mapNext]

/-- A CTRL write without SRST writes IE (R101). -/
theorem State.writeCtrl_of_noSrst {s : State} {d : Word} (hd : d.getLsbD 1 = false) :
    s.writeCtrl d = { s with ie := d.getLsbD 0 } :=
  if_neg (Bool.eq_false_iff.1 hd)

/-- Settles O7: with bit 1 = 0 the write sets IE; with bit 1 = 1 it is the reset of the block, whose outcome is
`reset_outcome`. -/
theorem writeCtrlSetsEnableOrResets : Obligations.WriteCtrlSetsEnableOrResets := by
  intro s d rest hdo
  refine ⟨fun hd => ?_, fun hd => ?_⟩
  · exact answers_of_regWrite hdo (by decide) (congrArg Host.Outcome.next (State.writeCtrl_of_noSrst hd))
  · obtain ⟨hframe, hmem, hops, -⟩ := reset_outcome { s with hostOps := rest }
    exact ⟨_, step_of_softReset hdo (by decide) (by decide) hd, hops, hframe, hmem⟩

/-- W1C, flag by flag (R102). -/
theorem State.writeStatus_eq (s : State) (d : Word) : s.writeStatus d =
    { s with
      done := if d.getLsbD 1 then false else s.done
      err := if d.getLsbD 2 then false else s.err
      errcode := if d.getLsbD 2 then 0#4 else s.errcode
      ovr := if d.getLsbD 3 then false else s.ovr } := by
  simp only [State.writeStatus, Bool.if_false_left, Bool.decide_eq_true, Bool.and_comm]

/-- Settles O8: STATUS is at offset 0x08, and a write of it is `State.writeStatus`. -/
theorem writeStatusClearsWhereOne : Obligations.WriteStatusClearsWhereOne := by
  intro s d rest hdo
  exact answers_of_regWrite hdo (by decide) (congrArg Host.Outcome.next (State.writeStatus_eq _ d))

/-- Settles O9: offsets 0x10, 0x14 and 0x18 are BASE, WIDTH and HEIGHT. -/
theorem writeOperandRegisters : Obligations.WriteOperandRegisters := by
  intro s d rest
  have hlow : BitVec.ofNat 16 (d.toNat % 65536) = d.setWidth 16 := by
    apply BitVec.eq_of_toNat_eq
    simp
  rw [hlow]
  exact ⟨fun hdo => answers_of_regWrite hdo (by decide) rfl, fun hdo => answers_of_regWrite hdo (by decide) rfl,
    fun hdo => answers_of_regWrite hdo (by decide) rfl⟩

theorem regAt_of_readOnly {off : Offset} (halign : off.toNat % 4 = 0)
    (hoff : off.toNat = 0x00 ∨ off.toNat = 0x1C ∨ 0x20 ≤ off.toNat) :
    regAt off = .id ∨ regAt off = .caps ∨ regAt off = .reserved := by
  revert off
  decide

/-- Settles O10: the offsets are those of ID, CAPS and the reserved registers, whose writes do nothing. -/
theorem writeOfReadOnlyChangesNothing : Obligations.WriteOfReadOnlyChangesNothing := by
  intro s off d rest hdo halign hoff
  refine answers_of_regWrite hdo halign ?_
  rcases regAt_of_readOnly halign hoff with h | h | h <;> rw [h] <;> rfl

end Sys2Proof.Machine

/-! # Accept and successful completion (R106 to R108) -/

namespace Sys2Proof.Machine

/-! ### One event of a command: launch and successful completion -/

/-- On the host's turn a command's event is its issue (R105). -/
theorem exec_of_hostTurn {s : State} (hturn : s.turn = .host) (i : Instr) :
    exec i s = issue (encode i) (tablesOf i) s := by
  simp only [exec_eq, commandEvent, hturn]

/-- On the engine's turn the event of the command that runs is the engine's step of it (R107). -/
theorem exec_of_engineTurn {i : Instr} {s : State} {a : BusAnswer} {r : Running} (hturn : s.turn = .engine a)
    (hr : s.engine = .busy r) (hop : r.shadow.op = opOf i) :
    exec i s = engineStep r a (outputOf i r.image r.tables) s := by
  simp only [exec_eq, commandEvent, hturn, hr, hop, if_true]

/-- A command whose checks pass, launched inside the contract of R241, is accepted (R105, R106). -/
theorem issue_of_passedChecks {s : State} {w : Word} (hi : s.engine = .idle)
    (hn : issueCheck s.params w s.base s.width s.height = none)
    (hl : s.params.launchAllowed (s.shadowOf w).start (s.shadowOf w).stop = true) (build : Image → Tables) :
    issue w build s = .next (s.accept w build) := by
  simp only [issue, hi, hn, hl, if_true]

/-- A command that memory serves completes (R107, R108). -/
theorem engineStep_of_served {s : State} {r : Running} {out : Nat → Nat → Rgb} (hspace : r.shadow.stop ≤ 2 ^ 32)
    (hadm : s.params.admits r.shadow.start r.shadow.stop = true) (hans : r.unanswered = false) :
    engineStep r .served out s = .next (s.complete r out) := by
  have hserved : s.params.answer r.shadow .served = .served :=
    (s.params.answer_eq_served r.shadow .served).2 ⟨hadm, rfl⟩
  simp only [engineStep, if_neg (Nat.not_lt.2 hspace), hans, hserved, Bool.false_eq_true, if_false]

/-! ### What accept takes (R38, R55) -/

/-- sh_op is OP's low two bits (R38, R70). -/
theorem State.shadowOf_op_toNat (s : State) (w : Word) : (s.shadowOf w).op.toNat = w.toNat % 4 := by
  simp [State.shadowOf, BitVec.extractLsb'_toNat]

/-- Pixel number k of a snapshot is the four bytes at its address (R50, R55). -/
theorem State.snapshotOf_getElem? (s : State) {sh : Shadow} {k : Nat} (hk : k < sh.pixelCount) :
    (s.snapshotOf sh)[k]? = some ⟨s.mem.read (sh.start + 4 * k), s.mem.read (sh.start + 4 * k + 1),
      s.mem.read (sh.start + 4 * k + 2), s.mem.read (sh.start + 4 * k + 3)⟩ := by
  rw [State.snapshotOf, List.getElem?_eq_getElem (by simpa using hk), Memory.readPixels_getElem _ _ _ _ hk,
    Memory.readPixel_eq]

/-- Pixel (x, y) has its number below N (R50). -/
theorem Shadow.pixelNumber_lt {sh : Shadow} {x y : Nat} (hx : x < sh.width.toNat) (hy : y < sh.height.toNat) :
    y * sh.width.toNat + x < sh.pixelCount := by
  unfold Shadow.pixelCount
  nlinarith

/-- While memory still holds the snapshot, the alpha byte of a pixel is the one in the snapshot. -/
theorem State.read_alphaAddr {s : State} {r : Running} (hsnap : s.snapshotOf r.shadow = r.snapshot) {x y : Nat}
    (hx : x < r.shadow.width.toNat) (hy : y < r.shadow.height.toNat) :
    s.mem.read (r.shadow.alphaAddr x y) = (r.image.pixelAt x y).a := by
  have hpixel := s.snapshotOf_getElem? (Shadow.pixelNumber_lt hx hy)
  rw [hsnap] at hpixel
  simp [Image.pixelAt, List.getD_eq_getElem?_getD, hpixel, Shadow.alphaAddr]

/-- An alpha byte is no colour byte (R50, R57). -/
theorem Shadow.isColour_alphaAddr (sh : Shadow) (x y : Nat) : sh.isColour (sh.alphaAddr x y) = false := by
  have hmod : (sh.alphaAddr x y - sh.start) % 4 = 3 := by
    unfold Shadow.alphaAddr
    omega
  simp [Shadow.isColour, (sh.isAlpha_iff _).2 hmod]

/-! ### What a successful completion leaves (R56, R108) -/

/-- What a successful completion changes: memory, the engine's state and DONE (R108). -/
theorem completionFrame_complete {s : State} {r : Running} (hw : r.hostWrote = false) (out : Nat → Nat → Rgb) :
    Rule.completionFrame s (s.complete r out) := by
  simp [Rule.completionFrame, State.complete, hw, State.completeOk]

/-- Completion leaves alpha as the snapshot has it (R56). -/
theorem alphaPasses_complete {s : State} {r : Running} (hsnap : s.snapshotOf r.shadow = r.snapshot)
    (out : Nat → Nat → Rgb) : Rule.alphaPasses r (s.complete r out) := fun x y hx hy => by
  rw [s.complete_read_other r out _ (r.shadow.isColour_alphaAddr x y), State.read_alphaAddr hsnap hx hy]

/-- A command that may complete does (R107, R108). -/
theorem exec_of_mayComplete {i : Instr} {s : State} {r : Running} (h : Rule.MayComplete (opOf i) s r) :
    exec i s = .next (s.complete r (outputOf i r.image r.tables)) := by
  rw [exec_of_engineTurn h.turn h.busy h.op, engineStep_of_served h.inSpace h.admitted h.answered]

/-! ### The statements about accept and completion -/

/-- Settles O15: the command's event is its issue, which accepts; the shadow and the snapshot are those of
`State.launched`. -/
theorem acceptTakesShadowAndSnapshot : Obligations.AcceptTakesShadowAndSnapshot := by
  intro i s hturn hi hn hl
  refine ⟨s.launched (encode i) (tablesOf i), ?_, ?_, rfl, rfl, rfl, Memory.readPixels_length _ _ _,
    fun k hk => s.snapshotOf_getElem? (sh := s.shadowOf (encode i)) hk⟩
  · rw [exec_of_hostTurn hturn, issue_of_passedChecks hi hn hl]
    rfl
  · exact s.shadowOf_op_toNat (encode i)

/-- Settles O27: the command's event is `State.complete`, which writes every output before it sets DONE. -/
theorem successfulCompletionWritesEveryOutput : Obligations.SuccessfulCompletionWritesEveryOutput := fun _ s r h =>
  ⟨_, exec_of_mayComplete h, completionFrame_complete h.noRace _, s.complete_read_other r _,
    alphaPasses_complete h.snapshot _,
    fun x y c hx hy => s.complete_read_output r _ x y c h.canonical h.noRace hx hy⟩

end Sys2Proof.Machine

/-! # Channel results and luma (R121, R123) -/

namespace Sys2Proof.Machine

/-! ### Channel values and result bytes -/

theorem Pixel.channel_le (p : Pixel) (c : Colour) : p.channel c ≤ 255 := by
  cases c <;> exact Nat.le_of_lt_succ (BitVec.isLt _)

/-- A result in a channel's range is the number its byte holds (R123). -/
theorem toNat_byte_of_le {n : Nat} (h : n ≤ 255) : (BitVec.ofNat 8 n : Byte).toNat = n :=
  Nat.mod_eq_of_lt (Nat.lt_succ_of_le h)

theorem gaussPixel_channel (img : Image) (t : Tables) (x y : Nat) (c : Colour) :
    (gaussPixel img t x y).channel c = BitVec.ofNat 8 (gaussChannel img x y c) := by
  cases c <;> rfl

@[simp] theorem Rgb.gray_channel (v : Byte) (c : Colour) : (Rgb.gray v).channel c = v := by
  cases c <;> rfl

/-! ### Luma (R121) -/

/-- The weights of luma sum to 1000, so rounding a sum of channel values stays at or below 255. -/
theorem luma_sum_le {r g b : Nat} (hr : r ≤ 255) (hg : g ≤ 255) (hb : b ≤ 255) :
    (299 * r + 587 * g + 114 * b + 500) / 1000 ≤ 255 := by
  omega

theorem luma_eq {r g b : Nat} (hr : r ≤ 255) (hg : g ≤ 255) (hb : b ≤ 255) :
    luma r g b = (299 * r + 587 * g + 114 * b + 500) / 1000 :=
  min_eq_right (luma_sum_le hr hg hb)

theorem luma_gray {v : Nat} (hv : v ≤ 255) : luma v v v = v := by
  rw [luma_eq hv hv hv]
  omega

/-- Settles O44: the weights sum to 1000, so the clamp never acts and gray keeps its value. -/
theorem lumaClampNeverActs : Obligations.LumaClampNeverActs :=
  ⟨fun _ _ _ hr hg hb => ⟨luma_eq hr hg hb, min_le_left _ _⟩, fun _ => luma_gray, by decide⟩

/-! ### A kernel's footprint (R130 to R132) -/

theorem footprintSum_le_footprintSum {n : Nat} {f g : Nat → Nat → Nat} (h : ∀ j i, f j i ≤ g j i) :
    footprintSum n f ≤ footprintSum n g :=
  List.sum_le_sum fun j _ => List.sum_le_sum fun i _ => h j i

/-- A footprint over an image of one value is the kernel's sum times that value. -/
theorem footprintSum_mul_const (n : Nat) (f : Nat → Nat → Nat) (v : Nat) :
    footprintSum n (fun j i => f j i * v) = footprintSum n f * v := by
  simp only [footprintSum, List.sum_map_mul_right]

/-- The weights of GAUSS5 sum to GAUSS_SUM (R131). -/
theorem footprintSum_gaussWeight : footprintSum 5 gaussWeight = gaussDivisor := by decide

theorem Image.sample_le (img : Image) (u v : Int) (c : Colour) : img.sample u v c ≤ 255 :=
  Pixel.channel_le _ c

/-- The accumulated sum is at most that of an image of 255 everywhere. -/
theorem gaussAcc_le (img : Image) (x y : Nat) (c : Colour) : gaussAcc img x y c ≤ gaussDivisor * 255 :=
  calc gaussAcc img x y c
      ≤ footprintSum 5 (fun ky kx => gaussWeight ky kx * 255) :=
        footprintSum_le_footprintSum fun _ _ => Nat.mul_le_mul_left _ (img.sample_le _ _ c)
    _ = gaussDivisor * 255 := by rw [footprintSum_mul_const, footprintSum_gaussWeight]

theorem gaussChannel_le (img : Image) (x y : Nat) (c : Colour) : gaussChannel img x y c ≤ 255 :=
  Nat.div_le_of_le_mul (gaussAcc_le img x y c)

/-! ### The lookup table (R143, R144) -/

/-- An entry of the lookup table is the luma itself, 0 or clamped (R143, R144). -/
theorem lutEntry_le (img : Image) {i : Nat} (hi : i ≤ 255) (c : Nat) : lutEntry img i c ≤ 255 := by
  unfold lutEntry
  split_ifs
  · exact hi
  · exact Nat.zero_le _
  · exact min_le_left _ _

theorem histeqTables_lut_getD (img : Image) {i : Nat} (hi : i ≤ 255) :
    (histeqTables img).lut.getD i 0#8 = BitVec.ofNat 8 (lutEntry img i ((cumulative img).getD i 0)) := by
  have hbin : i < histBins := Nat.lt_succ_of_le hi
  simp [histeqTables, lookupTable, List.getD_eq_getElem?_getD, hbin]

/-! ### The magnitude (R162) -/

theorem magnitudeOf_le (kx ky : List (List Int)) (img : Image) (t : Tables) (x y : Nat) :
    magnitudeOf kx ky img t x y ≤ 255 := by
  unfold magnitudeOf
  split_ifs
  · exact Nat.zero_le _
  · exact min_le_left _ _

theorem sobelMagnitude_le (img : Image) (t : Tables) (x y : Nat) : sobelMagnitude img t x y ≤ 255 :=
  magnitudeOf_le sobelX sobelY img t x y

/-! ### Nothing wraps (R123) -/

/-- Settles O48: each command's result is bounded by `gaussChannel_le`, `lutEntry_le` and `sobelMagnitude_le`, so its byte
holds it. -/
theorem noResultIsReducedModulo256 : Obligations.NoResultIsReducedModulo256 := by
  intro img t x y
  refine ⟨fun c => ⟨gaussChannel_le img x y c, ?gauss⟩, fun i hi => ⟨lutEntry_le img hi _, ?histeq⟩,
    sobelMagnitude_le img t x y, fun c => ?sobel⟩
  case gauss => rw [gaussPixel_channel, toNat_byte_of_le (gaussChannel_le img x y c)]
  case histeq => rw [histeqTables_lut_getD img hi, toNat_byte_of_le (lutEntry_le img hi _)]
  case sobel => rw [sobelPixel, Rgb.gray_channel, toNat_byte_of_le (sobelMagnitude_le img t x y)]

end Sys2Proof.Machine

/-! # GAUSS5, the convolution engine (R130 to R133) -/

namespace Sys2Proof.Machine

/-! ### A kernel's footprint as a sum -/

/-- The model's sum over lists is Mathlib's sum over ranges. -/
theorem footprintSum_eq_sum (n : Nat) (f : Nat → Nat → Nat) :
    footprintSum n f = ∑ j ∈ Finset.range n, ∑ i ∈ Finset.range n, f j i := rfl

/-- A footprint reads its terms at rows and columns below `n` only. -/
theorem footprintSum_congr {n : Nat} {f g : Nat → Nat → Nat} (h : ∀ j i, j < n → i < n → f j i = g j i) :
    footprintSum n f = footprintSum n g := by
  simp only [footprintSum_eq_sum]
  exact Finset.sum_congr rfl fun j hj => Finset.sum_congr rfl fun i hi =>
    h j i (Finset.mem_range.1 hj) (Finset.mem_range.1 hi)

/-! ### The weights (R130) -/

theorem gaussWeight_eq_table {ky kx : Nat} (hky : ky < 5) (hkx : kx < 5) :
    gaussWeight ky kx = (Rule.gaussKernel.getD ky []).getD kx 0 := by
  have htable : ∀ j < 5, ∀ i < 5, gaussWeight j i = (Rule.gaussKernel.getD j []).getD i 0 := by decide
  exact htable ky hky kx hkx

/-- The kernel is symmetric in its two coordinates, being the product of one row with itself. -/
theorem gaussWeight_comm (ky kx : Nat) : gaussWeight ky kx = gaussWeight kx ky := Nat.mul_comm _ _

theorem binomialRow_reflect {k : Nat} (hk : k < 5) : binomialRow.getD (4 - k) 0 = binomialRow.getD k 0 := by
  revert k
  decide

/-- The kernel is symmetric under reflection, since its row is. -/
theorem gaussWeight_reflect {ky : Nat} (hky : ky < 5) (kx : Nat) : gaussWeight (4 - ky) kx = gaussWeight ky kx := by
  simp only [gaussWeight, binomialRow_reflect hky]

/-- Settles O45: table, symmetries and sum are a lemma each. -/
theorem gaussWeightsAreTheBinomialTable : Obligations.GaussWeightsAreTheBinomialTable :=
  ⟨fun ky kx hky hkx => ⟨gaussWeight_eq_table hky hkx, gaussWeight_comm ky kx, (gaussWeight_reflect hky kx).symm⟩,
    footprintSum_gaussWeight, rfl⟩

/-! ### What one output reads (R132, R133) -/

/-- An output channel depends on the samples of that channel in its footprint alone. -/
theorem gaussChannel_congr {img img' : Image} {x y : Nat} {c : Colour}
    (h : ∀ kx ky : Nat, kx < 5 → ky < 5 →
      img.sample ((x : Int) + (kx : Int) - 2) ((y : Int) + (ky : Int) - 2) c =
        img'.sample ((x : Int) + (kx : Int) - 2) ((y : Int) + (ky : Int) - 2) c) :
    gaussChannel img x y c = gaussChannel img' x y c := by
  have hacc : gaussAcc img x y c = gaussAcc img' x y c :=
    footprintSum_congr fun ky kx hky hkx => congrArg (gaussWeight ky kx * ·) (h kx ky hkx hky)
  simp only [gaussChannel, hacc]

/-- Settles O47: images of one size clamp coordinates alike, so agreement on the clamped footprint is agreement of the
samples that `gaussChannel_congr` asks for. -/
theorem gaussLanesAndFootprint : Obligations.GaussLanesAndFootprint := by
  intro img img' t c x y hwidth hheight hagree
  rw [gaussPixel_channel, gaussPixel_channel]
  refine congrArg (BitVec.ofNat 8) (gaussChannel_congr fun kx ky hkx hky => ?_)
  simpa only [Image.sample, ← hwidth, ← hheight] using hagree kx ky hkx hky

/-! ### The blurred image (R131, R132) -/

/-- Clamp-to-edge (R120) at the coordinate `x + k − 2` of a 5×5 footprint, in natural numbers: subtraction stops at 0. -/
theorem clampCoord_footprint (x k size : Nat) :
    clampCoord ((x : Int) + (k : Int) - 2) size = min (x + k - 2) (size - 1) := by
  unfold clampCoord clamp
  omega

/-- GAUSS5's channel result is the one the rule writes (R131, R132). -/
theorem gaussChannel_eq_rule (img : Image) (x y : Nat) (c : Colour) :
    gaussChannel img x y c = Rule.gauss img x y c := by
  have hacc : gaussAcc img x y c = footprintSum 5 fun ky kx => (Rule.gaussKernel.getD ky []).getD kx 0 *
      (img.pixelAt (min (x + kx - 2) (img.width - 1)) (min (y + ky - 2) (img.height - 1))).channel c :=
    footprintSum_congr fun ky kx hky hkx => by
      rw [gaussWeight_eq_table hky hkx, Image.sample, clampCoord_footprint, clampCoord_footprint]
  rw [gaussChannel, hacc, footprintSum_eq_sum]
  rfl

/-- The byte GAUSS5 writes holds the number of the rule: nothing is lost, since it is at most 255 (R123). -/
theorem gaussPixel_channel_toNat (img : Image) (t : Tables) (x y : Nat) (c : Colour) :
    ((gaussPixel img t x y).channel c).toNat = Rule.gauss img x y c := by
  rw [gaussPixel_channel, toNat_byte_of_le (gaussChannel_le img x y c), gaussChannel_eq_rule]

/-- Settles O24: a successful completion writes the command's output at each address
(`successfulCompletionWritesEveryOutput`), and GAUSS5's output is the rule's. -/
theorem gauss5WritesTheBlurredImage : Obligations.Gauss5WritesTheBlurredImage := by
  intro s r h
  obtain ⟨t, hexec, hframe, hothers, halpha, hout⟩ := successfulCompletionWritesEveryOutput .gauss5 s r h
  refine ⟨t, hexec, hframe, hothers, halpha, fun x y c hx hy => ?_⟩
  rw [hout x y c hx hy]
  exact gaussPixel_channel_toNat r.image r.tables x y c

end Sys2Proof.Machine

/-! # HISTEQ's tables: the histogram, its running sum and the lookup table (R140 to R144) -/

namespace Sys2Proof.Machine

/-! ### The histogram (R140) -/

theorem Pixel.luma_le (p : Pixel) : p.luma ≤ 255 := min_le_left _ _

theorem Image.luma_le_of_mem {img : Image} {l : Nat} (hl : l ∈ img.lumas) : l ≤ 255 := by
  obtain ⟨p, -, rfl⟩ := List.mem_map.1 hl
  exact p.luma_le

@[simp] theorem Image.lumas_length (img : Image) : img.lumas.length = img.pixels.length := List.length_map _

@[simp] theorem histogram_length (img : Image) : (histogram img).length = 256 := by simp [histogram, histBins]

theorem histogram_getD (img : Image) {i : Nat} (hi : i < 256) : (histogram img).getD i 0 = img.lumas.count i := by
  simp [histogram, histBins, List.getD_eq_getElem?_getD, hi]

theorem count_lumas (img : Image) (i : Nat) : img.lumas.count i = img.pixels.countP (fun p => p.luma == i) :=
  List.countP_map

theorem le_length_of_mem_histogram {img : Image} {n : Nat} (hn : n ∈ histogram img) : n ≤ img.pixels.length := by
  obtain ⟨i, -, rfl⟩ := List.mem_map.1 hn
  exact img.lumas_length ▸ List.count_le_length

/-! ### Running sums -/

@[simp] theorem prefixSums_length (acc : Nat) (l : List Nat) : (prefixSums acc l).length = l.length := by
  induction l generalizing acc with
  | nil => rfl
  | cons h t ih => simp [prefixSums, ih]

/-- The running sum at `i` adds the entries up to and including `i`. -/
theorem prefixSums_getD (acc : Nat) {l : List Nat} {i : Nat} (hi : i < l.length) :
    (prefixSums acc l).getD i 0 = acc + (l.take (i + 1)).sum := by
  induction l generalizing acc i with
  | nil => exact absurd hi (Nat.not_lt_zero i)
  | cons h t ih =>
    cases i with
    | zero => simp [prefixSums]
    | succ i =>
      have hi' : i < t.length := Nat.lt_of_succ_lt_succ hi
      rw [prefixSums, List.getD_cons_succ, ih _ hi', List.take_succ_cons, List.sum_cons, Nat.add_assoc]

/-! ### The cdf (R141) -/

@[simp] theorem cumulative_length (img : Image) : (cumulative img).length = 256 := by simp [cumulative]

theorem cumulative_getD_eq_sum (img : Image) {i : Nat} (hi : i < 256) :
    (cumulative img).getD i 0 = ((histogram img).take (i + 1)).sum := by
  rw [cumulative, prefixSums_getD 0 (by simpa using hi), Nat.zero_add]

theorem histogram_sum_take_succ (img : Image) {i : Nat} (hi : i < 256) :
    ((histogram img).take (i + 1)).sum = ((histogram img).take i).sum + (histogram img).getD i 0 := by
  have hi' : i < (histogram img).length := by simpa using hi
  rw [List.sum_take_succ _ _ hi', List.getD_eq_getElem _ _ hi']

theorem cumulative_getD_zero (img : Image) : (cumulative img).getD 0 0 = (histogram img).getD 0 0 := by
  rw [cumulative_getD_eq_sum img (by decide), histogram_sum_take_succ img (by decide), List.take_zero, List.sum_nil,
    Nat.zero_add]

theorem cumulative_getD_succ (img : Image) {i : Nat} (hi : i + 1 < 256) :
    (cumulative img).getD (i + 1) 0 = (cumulative img).getD i 0 + (histogram img).getD (i + 1) 0 := by
  rw [cumulative_getD_eq_sum img hi, histogram_sum_take_succ img hi, cumulative_getD_eq_sum img (Nat.lt_of_succ_lt hi)]

theorem countP_le_succ (l : List Nat) (n : Nat) : l.countP (· ≤ n + 1) = l.countP (· ≤ n) + l.count (n + 1) := by
  induction l with
  | nil => rfl
  | cons h t ih =>
    simp only [List.countP_cons, List.count_cons, ih, decide_eq_true_eq, beq_iff_eq]
    split_ifs <;> omega

/-- cdf[i] counts the pixels whose luma is at most `i`. -/
theorem cumulative_getD (img : Image) {i : Nat} (hi : i < 256) :
    (cumulative img).getD i 0 = img.lumas.countP (· ≤ i) := by
  induction i with
  | zero =>
    rw [cumulative_getD_zero, histogram_getD img hi, List.count]
    exact List.countP_congr fun l _ => by simp
  | succ i ih => rw [cumulative_getD_succ img hi, ih (Nat.lt_of_succ_lt hi), histogram_getD img hi, countP_le_succ]

theorem cumulative_mono (img : Image) {i j : Nat} (hij : i ≤ j) (hj : j < 256) :
    (cumulative img).getD i 0 ≤ (cumulative img).getD j 0 := by
  rw [cumulative_getD img (hij.trans_lt hj), cumulative_getD img hj]
  exact List.countP_mono_left fun l _ hl => decide_eq_true ((of_decide_eq_true hl).trans hij)

/-- Every luma is at most 255, so the last entry counts every pixel. -/
theorem cumulative_getD_last (img : Image) : (cumulative img).getD 255 0 = img.pixels.length := by
  rw [cumulative_getD img (by decide), ← img.lumas_length, List.countP_eq_length]
  exact fun l hl => decide_eq_true (Image.luma_le_of_mem hl)

theorem cumulative_getD_le (img : Image) {i : Nat} (hi : i < 256) : (cumulative img).getD i 0 ≤ img.pixels.length :=
  cumulative_getD_last img ▸ cumulative_mono img (Nat.le_of_lt_succ hi) (by decide)

/-- Each pixel is in one bin only, so the bins together count every pixel (R140). -/
theorem histogram_sum (img : Image) : (histogram img).sum = img.pixels.length := by
  rw [← cumulative_getD_last, cumulative_getD_eq_sum img (by decide), List.take_of_length_le (by simp)]

theorem le_length_of_mem_cumulative {img : Image} {n : Nat} (hn : n ∈ cumulative img) : n ≤ img.pixels.length := by
  obtain ⟨i, hi, rfl⟩ := List.getElem_of_mem hn
  rw [← List.getD_eq_getElem _ 0 hi]
  exact cumulative_getD_le img (cumulative_length img ▸ hi)

theorem cdfMinimum_le (img : Image) : cdfMinimum img ≤ img.pixels.length := by
  unfold cdfMinimum
  cases hfind : (cumulative img).find? fun c => decide (0 < c) with
  | none => exact Nat.zero_le _
  | some c => exact le_length_of_mem_cumulative (List.mem_of_find?_eq_some hfind)

/-! ### The tables' 32-bit entries (R40) -/

theorem toNat_word_of_le {n : Nat} (h : n ≤ 2 ^ 30) : (BitVec.ofNat 32 n).toNat = n :=
  Nat.mod_eq_of_lt (h.trans_lt (by decide))

theorem map_toNat_words {l : List Nat} (h : ∀ n ∈ l, n ≤ 2 ^ 30) :
    (l.map (BitVec.ofNat 32)).map BitVec.toNat = l := by
  rw [List.map_map]
  exact (List.map_congr_left fun n hn => toNat_word_of_le (h n hn)).trans (List.map_id l)

/-- Settles O49: cdf[i] is the number of lumas at most `i` (`cumulative_getD`), so it grows up to the number of pixels,
which bounds every entry. -/
theorem histogramAndCdfCountEveryPixel : Obligations.HistogramAndCdfCountEveryPixel := by
  intro img hlength
  refine ⟨fun i hi => (histogram_getD img hi).trans (count_lumas img i), hlength ▸ histogram_sum img,
    histogram_length img, cumulative_length img, cumulative_getD_zero img, fun i hpos hi => ?succ,
    fun i j => cumulative_mono img, hlength ▸ cumulative_getD_last img, fun hN => ?nowrap⟩
  case succ =>
    obtain ⟨k, rfl⟩ := Nat.exists_eq_add_of_le' hpos
    exact cumulative_getD_succ img hi
  case nowrap =>
    have hfits : img.pixels.length ≤ 2 ^ 30 := hlength ▸ hN
    exact ⟨map_toNat_words fun n hn => (le_length_of_mem_histogram hn).trans hfits,
      map_toNat_words fun n hn => (le_length_of_mem_cumulative hn).trans hfits,
      toNat_word_of_le ((cdfMinimum_le img).trans hfits)⟩

/-! ### The least luma present (R142) -/

/-- `i0` is the least luma present, by the model's histogram (R142). -/
structure IsLeastLuma (img : Image) (i0 : Nat) : Prop where
  lt : i0 < 256
  present : 0 < (histogram img).getD i0 0
  absent : ∀ j, j < i0 → (histogram img).getD j 0 = 0

theorem exists_isLeastLuma {img : Image} (hne : img.pixels ≠ []) : ∃ i0, IsLeastLuma img i0 := by
  obtain ⟨p, hp⟩ := List.exists_mem_of_ne_nil _ hne
  have hlt : p.luma < 256 := Nat.lt_succ_of_le p.luma_le
  have hpos : 0 < (histogram img).getD p.luma 0 := by
    rw [histogram_getD img hlt]
    exact List.count_pos_iff.2 (List.mem_map_of_mem hp)
  have hex : ∃ i, 0 < (histogram img).getD i 0 := ⟨_, hpos⟩
  exact ⟨Nat.find hex, (Nat.find_min' hex hpos).trans_lt hlt, Nat.find_spec hex,
    fun j hj => Nat.eq_zero_of_not_pos (Nat.find_min hex hj)⟩

namespace IsLeastLuma

variable {img : Image} {i0 : Nat}

theorem cumulative_below (h : IsLeastLuma img i0) {i : Nat} (hi : i < i0) : (cumulative img).getD i 0 = 0 := by
  induction i with
  | zero => rw [cumulative_getD_zero, h.absent 0 hi]
  | succ i ih => rw [cumulative_getD_succ img (hi.trans h.lt), ih (Nat.lt_of_succ_lt hi), h.absent _ hi]

theorem cumulative_self (h : IsLeastLuma img i0) : (cumulative img).getD i0 0 = (histogram img).getD i0 0 := by
  cases i0 with
  | zero => exact cumulative_getD_zero img
  | succ i => rw [cumulative_getD_succ img h.lt, h.cumulative_below i.lt_succ_self, Nat.zero_add]

/-- Below `i0` the cdf is 0, so its entry at `i0` is the first that is not. -/
theorem cdfMinimum_eq (h : IsLeastLuma img i0) : cdfMinimum img = (cumulative img).getD i0 0 := by
  have hlt : i0 < (cumulative img).length := (cumulative_length img).symm ▸ h.lt
  have hfind : (cumulative img).find? (fun c => decide (0 < c)) = some ((cumulative img).getD i0 0) := by
    refine List.find?_eq_some_iff_getElem.2 ⟨?pos, i0, hlt, (List.getD_eq_getElem _ 0 hlt).symm, fun j hj => ?zero⟩
    case pos => exact decide_eq_true (h.cumulative_self ▸ h.present)
    case zero =>
      rw [← List.getD_eq_getElem _ 0 (hj.trans hlt), h.cumulative_below hj]
      rfl
  rw [cdfMinimum, hfind, Option.getD_some]

theorem cdfMinimum_eq_histogram (h : IsLeastLuma img i0) : cdfMinimum img = (histogram img).getD i0 0 :=
  h.cdfMinimum_eq.trans h.cumulative_self

theorem cumulative_lt_cdfMinimum_iff (h : IsLeastLuma img i0) {i : Nat} (hi : i < 256) :
    (cumulative img).getD i 0 < cdfMinimum img ↔ i < i0 := by
  refine ⟨fun hlt => ?_, fun hlt => ?_⟩
  · by_contra hge
    exact absurd (h.cdfMinimum_eq ▸ hlt) (cumulative_mono img (Nat.le_of_not_lt hge) hi).not_gt
  · rw [h.cumulative_below hlt, h.cdfMinimum_eq_histogram]
    exact h.present

end IsLeastLuma

/-- Settles O50: the cdf is 0 below the least luma, so the first entry that is not 0 stands there. -/
theorem cdfMinIsTheCountOfTheLeastLuma : Obligations.CdfMinIsTheCountOfTheLeastLuma := by
  refine fun img => ⟨fun i0 hlt hpresent habsent => ?_, fun hne => ?_⟩
  · have h : IsLeastLuma img i0 := ⟨hlt, hpresent, habsent⟩
    exact ⟨h.cdfMinimum_eq_histogram, h.cdfMinimum_eq⟩
  · obtain ⟨i0, hlt, hpresent, habsent⟩ := exists_isLeastLuma hne
    exact ⟨i0, hlt, hpresent, habsent⟩

/-! ### The stretch (R143) -/

/-- R143's quotient, `k` being cdf[i] − cdfMin. -/
def stretch (d k : Nat) : Nat := (510 * k + d) / (2 * d)

theorem divNearest_eq_stretch (d k : Nat) : divNearest (255 * k) d = stretch d k := by
  rw [divNearest, stretch, ← Nat.mul_assoc]

theorem stretch_mono (d : Nat) {k k' : Nat} (h : k ≤ k') : stretch d k ≤ stretch d k' :=
  Nat.div_le_div_right (Nat.add_le_add_right (Nat.mul_le_mul_left _ h) _)

theorem stretch_zero (d : Nat) : stretch d 0 = 0 := by
  unfold stretch
  rcases Nat.eq_zero_or_pos d with rfl | hd
  · rfl
  · exact Nat.div_eq_of_lt (by omega)

theorem stretch_self {d : Nat} (hd : 0 < d) : stretch d d = 255 := by
  have hsum : 510 * d + d = 511 * d := by omega
  rw [stretch, hsum, Nat.mul_div_mul_right _ _ hd]

theorem stretch_le {d k : Nat} (hd : 0 < d) (hk : k ≤ d) : stretch d k ≤ 255 :=
  stretch_self hd ▸ stretch_mono d hk

/-! ### The lookup table -/

theorem lookupTable_getD (img : Image) {i : Nat} (hi : i < 256) :
    (lookupTable img).getD i 0 = lutEntry img i ((cumulative img).getD i 0) := by
  simp [lookupTable, histBins, List.getD_eq_getElem?_getD, hi]

theorem lookupTable_of_flat {img : Image} (hflat : cdfRange img = 0) {i : Nat} (hi : i < 256) :
    (lookupTable img).getD i 0 = i := by
  rw [lookupTable_getD img hi, lutEntry, if_pos hflat]

theorem cumulative_sub_le_cdfRange {img : Image} (hlength : img.pixels.length = img.pixelCount) {i : Nat}
    (hi : i < 256) : (cumulative img).getD i 0 - cdfMinimum img ≤ cdfRange img :=
  Nat.sub_le_sub_right (hlength ▸ cumulative_getD_le img hi) _

/-- Where D > 0 neither the clamp nor the case below cdfMin acts: cdf[i] − cdfMin is at most D, and where it would be
negative the subtraction of naturals stops at 0, which the stretch maps to 0. -/
theorem lookupTable_of_range_pos {img : Image} (hlength : img.pixels.length = img.pixelCount) (hpos : 0 < cdfRange img)
    {i : Nat} (hi : i < 256) :
    (lookupTable img).getD i 0 = stretch (cdfRange img) ((cumulative img).getD i 0 - cdfMinimum img) := by
  rw [lookupTable_getD img hi, lutEntry, if_neg hpos.ne', divNearest_eq_stretch,
    min_eq_right (stretch_le hpos (cumulative_sub_le_cdfRange hlength hi))]
  split_ifs with hbelow
  · rw [Nat.sub_eq_zero_of_le hbelow.le, stretch_zero]
  · rfl

/-- Settles O51: every entry is the stretch of cdf[i] − cdfMin (`lookupTable_of_range_pos`), which is monotone, 0 at 0 and
255 at D. -/
theorem lookupTableStretchesToTheFullRange : Obligations.LookupTableStretchesToTheFullRange := by
  intro img i0 hlength hlt hpresent habsent hpos
  have h : IsLeastLuma img i0 := ⟨hlt, hpresent, habsent⟩
  dsimp only
  rw [← h.cdfMinimum_eq_histogram, ← cdfRange] at hpos ⊢
  have hlut := @lookupTable_of_range_pos img hlength hpos
  refine ⟨fun i => h.cumulative_lt_cdfMinimum_iff, fun i hi => ?below, fun i _ hi => ⟨hlut hi, ?range⟩,
    fun i j hij hj => ?mono, ?least, fun i hi hN => ?top⟩
  case below => rw [hlut (hi.trans hlt), h.cumulative_below hi, Nat.zero_sub, stretch_zero]
  case range => exact stretch_le hpos (cumulative_sub_le_cdfRange hlength hi)
  case mono =>
    rw [hlut (hij.trans_lt hj), hlut hj]
    exact stretch_mono _ (Nat.sub_le_sub_right (cumulative_mono img hij hj) _)
  case least => rw [hlut hlt, h.cdfMinimum_eq, Nat.sub_self, stretch_zero]
  case top => rw [hlut hi, hN, ← cdfRange, stretch_self hpos]

/-! ### The flat image (R144) -/

/-- D = 0 where the least luma's bin holds every pixel. -/
theorem IsLeastLuma.cdfRange_eq_zero_iff {img : Image} {i0 : Nat} (h : IsLeastLuma img i0)
    (hlength : img.pixels.length = img.pixelCount) : cdfRange img = 0 ↔ ∀ p ∈ img.pixels, p.luma = i0 := by
  calc cdfRange img = 0
      ↔ img.lumas.length ≤ img.lumas.count i0 := by
        rw [cdfRange, Nat.sub_eq_zero_iff_le, h.cdfMinimum_eq_histogram, histogram_getD img h.lt,
          img.lumas_length, hlength]
    _ ↔ img.lumas.count i0 = img.lumas.length := ⟨List.count_le_length.antisymm, Eq.ge⟩
    _ ↔ ∀ p ∈ img.pixels, p.luma = i0 := by
        simp only [List.count_eq_length, Image.lumas, List.forall_mem_map, eq_comm]

theorem IsLeastLuma.exists_pixel {img : Image} {i0 : Nat} (h : IsLeastLuma img i0) :
    ∃ p ∈ img.pixels, p.luma = i0 := by
  have hpresent := h.present
  rw [histogram_getD img h.lt, List.count_pos_iff] at hpresent
  exact List.mem_map.1 hpresent

/-- Settles O52: D = 0 says that every luma is the least one present (`IsLeastLuma.cdfRange_eq_zero_iff`), and some pixel
has that one. -/
theorem flatImageHasTheIdentityTable : Obligations.FlatImageHasTheIdentityTable := by
  intro img hne hlength
  obtain ⟨i0, h⟩ := exists_isLeastLuma hne
  refine ⟨?_, fun hflat i => lookupTable_of_flat hflat⟩
  rw [h.cdfRange_eq_zero_iff hlength]
  constructor
  · exact fun hall p hp q hq => (hall p hp).trans (hall q hq).symm
  · intro hsame p hp
    obtain ⟨q, hq, rfl⟩ := h.exists_pixel
    exact hsame p hp q hq

end Sys2Proof.Machine

/-! # SOBEL, the edge detector (R160 to R163) -/

namespace Sys2Proof.Machine

/-! ### The integer square root (R9) -/

/-- While the root lies in `[m, m + 2^k)`, its `k` low bits complete `m` to it. -/
theorem isqrtBits_eq_sqrt {k m n : Nat} (hlow : m * m ≤ n) (hhigh : n < (m + 2 ^ k) * (m + 2 ^ k)) :
    isqrtBits k m n = Nat.sqrt n := by
  induction k generalizing m with
  | zero => exact Nat.eq_sqrt.2 ⟨hlow, hhigh⟩
  | succ k ih =>
    rw [isqrtBits]
    split
    case isTrue hbit =>
      refine ih hbit ?_
      rwa [Nat.add_assoc, ← Nat.two_mul, ← Nat.pow_succ']
    case isFalse hbit => exact ih hlow (Nat.lt_of_not_le hbit)

/-- The root of `n` has at most half as many bits as `n`, rounded up, which is where the search starts. -/
theorem isqrt_eq_sqrt (n : Nat) : isqrt n = Nat.sqrt n := by
  refine isqrtBits_eq_sqrt (Nat.zero_le n) ?_
  calc n < 2 ^ (n.log2 + 1) := Nat.lt_log2_self
    _ ≤ 2 ^ ((n.log2 / 2 + 1) + (n.log2 / 2 + 1)) := Nat.pow_le_pow_right Nat.two_pos (by omega)
    _ = (0 + 2 ^ (n.log2 / 2 + 1)) * (0 + 2 ^ (n.log2 / 2 + 1)) := by rw [Nat.zero_add, Nat.pow_add]

/-! ### The border (R162) -/

theorem Image.isBorder_iff (img : Image) (x y : Nat) :
    img.isBorder x y = true ↔ x = 0 ∨ x + 1 = img.width ∨ y = 0 ∨ y + 1 = img.height := by
  simp only [Image.isBorder, Bool.or_eq_true, beq_iff_eq]
  omega

theorem magnitudeOf_border {img : Image} {x y : Nat} (h : img.isBorder x y = true) (kx ky : List (List Int))
    (t : Tables) : magnitudeOf kx ky img t x y = 0 := if_pos h

/-- An image with a side below 3 has no interior pixel (R163). -/
theorem Image.isBorder_of_small {img : Image} (hsmall : img.width < 3 ∨ img.height < 3) {x y : Nat}
    (hx : x < img.width) (hy : y < img.height) : img.isBorder x y = true := by
  rw [Image.isBorder_iff]
  omega

/-! ### The gray table (R161) -/

/-- Entry (x, y) of the gray table is the luma of pixel (x, y). Where the image has no such pixel both are 0. -/
theorem grayAt_sobelTables (img : Image) (x y : Nat) : grayAt img (sobelTables img) x y = Rule.lumaAt img x y := by
  have hentry : (sobelTables img).gray.getD (y * img.width + x) 0#8 = BitVec.ofNat 8 (img.pixelAt x y).luma := by
    have hzero : BitVec.ofNat 8 Pixel.zero.luma = 0#8 := by decide
    rw [← hzero, sobelTables, Image.lumas, List.map_map]
    exact List.getD_map img.pixels Pixel.zero (BitVec.ofNat 8 ∘ Pixel.luma)
  rw [grayAt, hentry, toNat_byte_of_le (Pixel.luma_le _)]
  rfl

/-! ### The gradient (R160, R162) -/

/-- The model's sum over lists is Mathlib's sum over ranges. -/
theorem footprintSumInt_eq_sum (n : Nat) (f : Nat → Nat → Int) :
    footprintSumInt n f = ∑ j ∈ Finset.range n, ∑ i ∈ Finset.range n, f j i := rfl

theorem footprintSumInt_congr {n : Nat} {f g : Nat → Nat → Int} (h : ∀ j i, j < n → i < n → f j i = g j i) :
    footprintSumInt n f = footprintSumInt n g := by
  simp only [footprintSumInt_eq_sum]
  exact Finset.sum_congr rfl fun j hj => Finset.sum_congr rfl fun i hi =>
    h j i (Finset.mem_range.1 hj) (Finset.mem_range.1 hi)

/-- A footprint over an image of one value is the kernel's sum times that value. -/
theorem footprintSumInt_mul_const (n : Nat) (f : Nat → Nat → Int) (v : Int) :
    footprintSumInt n (fun j i => f j i * v) = footprintSumInt n f * v := by
  simp only [footprintSumInt_eq_sum, Finset.sum_mul]

theorem footprintSumInt_three (f : Nat → Nat → Int) :
    footprintSumInt 3 f =
      f 0 0 + f 0 1 + f 0 2 + (f 1 0 + f 1 1 + f 1 2) + (f 2 0 + f 2 1 + f 2 2) := by
  simp only [footprintSumInt_eq_sum, Finset.sum_range_succ, Finset.sum_range_zero, zero_add]

/-- A kernel's gradient, written out over the pixel and its eight neighbours. -/
theorem sobelGradient_eq (k : List (List Int)) (img : Image) (x y : Nat) :
    sobelGradient k img (sobelTables img) x y =
      kernelAt k 0 0 * Rule.lumaAt img (x - 1) (y - 1) + kernelAt k 0 1 * Rule.lumaAt img x (y - 1) +
        kernelAt k 0 2 * Rule.lumaAt img (x + 1) (y - 1) +
      (kernelAt k 1 0 * Rule.lumaAt img (x - 1) y + kernelAt k 1 1 * Rule.lumaAt img x y +
        kernelAt k 1 2 * Rule.lumaAt img (x + 1) y) +
      (kernelAt k 2 0 * Rule.lumaAt img (x - 1) (y + 1) + kernelAt k 2 1 * Rule.lumaAt img x (y + 1) +
        kernelAt k 2 2 * Rule.lumaAt img (x + 1) (y + 1)) := by
  simp only [sobelGradient, footprintSumInt_three, grayAt_sobelTables]
  rfl

/-- SX's gradient, its zero weights left out, is the rule's difference of two columns. -/
theorem sobelGradient_sobelX (img : Image) (x y : Nat) :
    sobelGradient sobelX img (sobelTables img) x y = Rule.gx img x y := by
  simp only [sobelGradient_eq, kernelAt, sobelX, List.getD_cons_zero, List.getD_cons_succ, Rule.gx]
  ring

/-- SY's gradient, its zero weights left out, is the rule's difference of two rows. -/
theorem sobelGradient_sobelY (img : Image) (x y : Nat) :
    sobelGradient sobelY img (sobelTables img) x y = Rule.gy img x y := by
  simp only [sobelGradient_eq, kernelAt, sobelY, List.getD_cons_zero, List.getD_cons_succ, Rule.gy]
  ring

/-- Each kernel's weights sum to 0 (R163). -/
theorem footprintSumInt_sobelX : footprintSumInt 3 (kernelAt sobelX) = 0 := by decide

theorem footprintSumInt_sobelY : footprintSumInt 3 (kernelAt sobelY) = 0 := by decide

/-- A kernel whose weights sum to 0 has no gradient where the gray table is constant on its footprint. -/
theorem sobelGradient_of_constant {k : List (List Int)} (hk : footprintSumInt 3 (kernelAt k) = 0) {img : Image}
    {t : Tables} {x y g : Nat} (hg : ∀ j i, j < 3 → i < 3 → grayAt img t (x + i - 1) (y + j - 1) = g) :
    sobelGradient k img t x y = 0 :=
  calc sobelGradient k img t x y
      = footprintSumInt 3 (fun j i => kernelAt k j i * (g : Int)) :=
        footprintSumInt_congr fun j i hj hi => by rw [hg j i hj hi]
    _ = 0 := by rw [footprintSumInt_mul_const, hk, zero_mul]

/-! ### The magnitude (R162, R163) -/

/-- SOBEL's magnitude is the one the rule writes. -/
theorem sobelMagnitude_eq_rule (img : Image) (x y : Nat) :
    sobelMagnitude img (sobelTables img) x y = Rule.magnitude img x y := by
  simp only [sobelMagnitude, magnitudeOf, gradientSquared, Rule.magnitude, Image.isBorder_iff, isqrt_eq_sqrt,
    sobelGradient_sobelX, sobelGradient_sobelY]

theorem sobelMagnitude_border {img : Image} {x y : Nat} (h : img.isBorder x y = true) (t : Tables) :
    sobelMagnitude img t x y = 0 :=
  magnitudeOf_border h sobelX sobelY t

/-- Without a gradient there is no magnitude, on the border or inside. -/
theorem sobelMagnitude_of_gradients_zero {img : Image} {t : Tables} {x y : Nat}
    (hx : sobelGradient sobelX img t x y = 0) (hy : sobelGradient sobelY img t x y = 0) :
    sobelMagnitude img t x y = 0 := by
  simp [sobelMagnitude, magnitudeOf, gradientSquared, hx, hy, isqrt_eq_sqrt]

/-- On a flat image the footprint of an interior pixel lies in the image, so the gray table is constant there and neither
kernel has a gradient. -/
theorem sobelMagnitude_of_flat {img : Image} {g : Nat}
    (hflat : ∀ x y, x < img.width → y < img.height → Rule.lumaAt img x y = g) {x y : Nat} (hx : x < img.width)
    (hy : y < img.height) : sobelMagnitude img (sobelTables img) x y = 0 := by
  by_cases hborder : img.isBorder x y = true
  · exact sobelMagnitude_border hborder _
  · rw [Image.isBorder_iff] at hborder
    have hgray : ∀ j i, j < 3 → i < 3 → grayAt img (sobelTables img) (x + i - 1) (y + j - 1) = g := fun j i hj hi => by
      rw [grayAt_sobelTables]
      exact hflat _ _ (by omega) (by omega)
    exact sobelMagnitude_of_gradients_zero (sobelGradient_of_constant footprintSumInt_sobelX hgray)
      (sobelGradient_of_constant footprintSumInt_sobelY hgray)

/-- The byte SOBEL writes holds the magnitude of the rule: nothing is lost, since it is at most 255 (R123). -/
theorem sobelPixel_channel_toNat (img : Image) (x y : Nat) (c : Colour) :
    ((sobelPixel img (sobelTables img) x y).channel c).toNat = Rule.magnitude img x y := by
  rw [sobelPixel, Rgb.gray_channel, toNat_byte_of_le (sobelMagnitude_le img _ x y), sobelMagnitude_eq_rule]

/-! ### The statements about SOBEL -/

/-- Settles O26: a successful completion writes the command's output at each address
(`successfulCompletionWritesEveryOutput`), and SOBEL's output is the rule's. -/
theorem sobelWritesTheEdgeMap : Obligations.SobelWritesTheEdgeMap := by
  intro s r h htables
  obtain ⟨t, hexec, hframe, hothers, halpha, hout⟩ := successfulCompletionWritesEveryOutput .sobel s r h
  refine ⟨t, hexec, hframe, hothers, halpha, fun x y c hx hy => ?_⟩
  rw [hout x y c hx hy, htables]
  exact sobelPixel_channel_toNat r.image x y c

/-- Settles O53: the weights of each kernel sum to 0, so a flat image has no gradient; the border is 0 by definition, and an
image with a side below 3 is all border. -/
theorem sobelIsZeroOnFlatImagesAndBorders : Obligations.SobelIsZeroOnFlatImagesAndBorders := fun img _ =>
  ⟨fun _ hflat _ _ => sobelMagnitude_of_flat hflat,
    fun x y hborder => sobelMagnitude_border ((img.isBorder_iff x y).2 hborder) _,
    fun hsmall _ _ hx hy => sobelMagnitude_border (Image.isBorder_of_small hsmall hx hy) _⟩

end Sys2Proof.Machine

/-! # The issue checks and the interrupt (R201, R210) -/

namespace Sys2Proof.Machine

/-! ### The issue checks (R201) -/

theorem lowBits_ne_zero_iff (a : Word) : a.extractLsb' 0 2 ≠ 0#2 ↔ a.toNat % 4 ≠ 0 := by
  simp [← BitVec.toNat_inj, BitVec.extractLsb'_toNat]

/-- The answer of the first failing of five checks, in R201's order, and why it is that one. -/
inductive FirstFailing (legal zero tooBig odd past : Prop) : Option ErrorCode → Prop
  | badOpcode (hlegal : ¬ legal) : FirstFailing legal zero tooBig odd past (some .badOpcode)
  | zeroDim (hlegal : legal) (hzero : zero) : FirstFailing legal zero tooBig odd past (some .zeroDim)
  | dimRange (hlegal : legal) (hzero : ¬ zero) (hbig : tooBig) : FirstFailing legal zero tooBig odd past (some .dimRange)
  | misaligned (hlegal : legal) (hzero : ¬ zero) (hbig : ¬ tooBig) (hodd : odd) :
      FirstFailing legal zero tooBig odd past (some .misaligned)
  | region (hlegal : legal) (hzero : ¬ zero) (hbig : ¬ tooBig) (hodd : ¬ odd) (hpast : past) :
      FirstFailing legal zero tooBig odd past (some .region)
  | passed (hlegal : legal) (hzero : ¬ zero) (hbig : ¬ tooBig) (hodd : ¬ odd) (hpast : ¬ past) :
      FirstFailing legal zero tooBig odd past none

/-- The model's `issueCheck` answers with the first failing check, the checks written in numbers. -/
theorem issueCheck_firstFailing (p : Params) (w base : Word) (width height : Half) :
    FirstFailing (w = 0x00000001#32 ∨ w = 0x00000002#32 ∨ w = 0x00000003#32)
      (width.toNat = 0 ∨ height.toNat = 0)
      (width.toNat > p.maxWidth.toNat ∨ height.toNat > p.maxHeight.toNat)
      (base.toNat % 4 ≠ 0)
      (base.toNat + 4 * (width.toNat * height.toNat) > 4294967296)
      (issueCheck p w base width height) := by
  simp only [issueCheck, lowBits_ne_zero_iff, Nat.mul_assoc]
  split_ifs with hlegal hzero hbig hodd hpast
  · exact .zeroDim hlegal hzero
  · exact .dimRange hlegal hzero hbig
  · exact .misaligned hlegal hzero hbig hodd
  · exact .region hlegal hzero hbig hodd hpast
  · exact .passed hlegal hzero hbig hodd hpast
  · exact .badOpcode hlegal

/-- Settles O13: the six cases of `FirstFailing` exclude each other and their codes differ, so each code is answered in its
own case only. -/
theorem issueReportsTheFirstFailingCheck : Obligations.IssueReportsTheFirstFailingCheck := by
  intro p w base width height legal zero tooBig odd past
  have hfirst : FirstFailing legal zero tooBig odd past (issueCheck p w base width height) :=
    issueCheck_firstFailing p w base width height
  clear_value legal zero tooBig odd past
  generalize issueCheck p w base width height = answer at hfirst ⊢
  cases hfirst with
  | badOpcode hlegal => simp [ErrorCode.code, hlegal]
  | zeroDim hlegal hzero => simp [ErrorCode.code, hlegal, hzero]
  | dimRange hlegal hzero hbig => simp [ErrorCode.code, hlegal, hzero, hbig]
  | misaligned hlegal hzero hbig hodd => simp [ErrorCode.code, hlegal, hzero, hbig, hodd]
  | region hlegal hzero hbig hodd hpast => simp [ErrorCode.code, hlegal, hzero, hbig, hodd, hpast]
  | passed hlegal hzero hbig hodd hpast => simp [hlegal, hzero, hbig, hodd, hpast]

/-! ### The interrupt (R210) -/

theorem State.irq_of_done {s : State} (h : s.done = true) : s.irq = s.ie := by simp [State.irq, h]

theorem State.irq_of_notDone {s : State} (h : s.done = false) : s.irq = false := by simp [State.irq, h]

theorem State.irq_of_masked {s : State} (h : s.ie = false) : s.irq = false := by simp [State.irq, h]

theorem State.interruptInput_iff (s : State) (line : Nat) :
    s.interruptInput line = true ↔ line = s.params.irqLine ∧ s.irq = true := by
  simp [State.interruptInput]

/-- Settles O23: each event's effect on `irq` is its effect on DONE, or on IE for the mask. -/
theorem interruptFollowsEnableAndDone : Obligations.InterruptFollowsEnableAndDone := fun s =>
  ⟨rfl,
    fun e => State.irq_of_done (s.completeWithError_done e),
    fun r out => (State.irq_of_done (s.complete_done r out)).trans (s.complete_ie r out),
    rfl,
    fun d hd => State.irq_of_notDone (by simp [hd]),
    fun w build => State.irq_of_notDone (s.accept_done w build),
    State.irq_of_notDone s.resetBlock_done,
    fun d hmask hsrst => by
      rw [State.writeCtrl_of_noSrst hsrst]
      exact ⟨State.irq_of_masked hmask, rfl⟩,
    s.interruptInput_iff⟩

end Sys2Proof.Machine

/-! # The legal words are the words of the commands (R70 to R73) -/

namespace Sys2Proof

/-! ### The fields of a word, in numbers -/

theorem opField_toNat (w : Word) : (opField w).toNat = w.toNat % 16 := by
  simp [opField, BitVec.extractLsb'_toNat]

theorem rsvdField_eq_zero_iff (w : Word) : rsvdField w = 0#28 ↔ w.toNat < 16 := by
  have hw : w.toNat < 2 ^ 32 := w.isLt
  have hfield : (rsvdField w).toNat = w.toNat / 16 := by
    rw [rsvdField, BitVec.extractLsb'_toNat, Nat.shiftRight_eq_div_pow]
    omega
  rw [← BitVec.toNat_inj, hfield]
  simp

/-- R73, by the fields' numbers. -/
theorem wellFormedWord_iff_fields (w : Word) :
    wellFormedWord w = true ↔ rsvdField w = 0#28 ∧ 1 ≤ (opField w).toNat ∧ (opField w).toNat ≤ 3 := by
  have hop : (opField w = 1#4 ∨ opField w = 2#4) ∨ opField w = 3#4 ↔ 1 ≤ (opField w).toNat ∧ (opField w).toNat ≤ 3 := by
    simp only [← BitVec.toNat_inj, BitVec.toNat_ofNat]
    omega
  simp [wellFormedWord, hop]

/-- RSVD = 0 leaves the word its OP. -/
theorem wellFormedWord_iff_toNat (w : Word) : wellFormedWord w = true ↔ 1 ≤ w.toNat ∧ w.toNat ≤ 3 := by
  rw [wellFormedWord_iff_fields, rsvdField_eq_zero_iff, opField_toNat]
  omega

/-- A word of the number 1, 2 or 3 is the word of a command (R71). -/
theorem exists_eq_encode_of_toNat {w : Word} (h : 1 ≤ w.toNat ∧ w.toNat ≤ 3) : ∃ i, w = encode i := by
  obtain h1 | h2 | h3 : w.toNat = 1 ∨ w.toNat = 2 ∨ w.toNat = 3 := by omega
  · exact ⟨.gauss5, BitVec.eq_of_toNat_eq h1⟩
  · exact ⟨.histeq, BitVec.eq_of_toNat_eq h2⟩
  · exact ⟨.sobel, BitVec.eq_of_toNat_eq h3⟩

theorem wellFormedWord_encode (i : Instr) : wellFormedWord (encode i) = true := by
  cases i with
  | gauss5 => exact Laws.LegalWord.gauss5.1
  | histeq => exact Laws.LegalWord.histeq.1
  | sobel => exact Laws.LegalWord.sobel.1

theorem wellFormedWord_iff_exists_decode (w : Word) : wellFormedWord w = true ↔ ∃ i, decode w = some i := by
  simp only [decode_eq_some_iff]
  constructor
  · exact fun h => exists_eq_encode_of_toNat ((wellFormedWord_iff_toNat w).1 h)
  · rintro ⟨i, rfl⟩
    exact wellFormedWord_encode i

/-! ### The statements about the encoding -/

/-- Settles O3: a legal word is one of the numbers 1 to 3 (`wellFormedWord_iff_toNat`), which are the encodings. -/
theorem decodeAndEncodeAgreeOnEveryWord : Obligations.DecodeAndEncodeAgreeOnEveryWord := fun w =>
  ⟨fun _ => decode_eq_some_iff, wellFormedWord_iff_exists_decode w, wellFormedWord_iff_fields w⟩

/-- Settles O2: the decoder is evaluated on the six words. -/
theorem writtenOutWordsDecode : Obligations.WrittenOutWordsDecode := by
  unfold Obligations.WrittenOutWordsDecode
  decide

end Sys2Proof

/-! # What no event changes: the parameters and the schedule

`State.surroundings` holds them as one value; every operation keeps it, and only `State.endTurn` moves the turn on. -/

namespace Sys2Proof.Machine

/-- What is neither the block's nor the host's: the OPEN parameters (R7) and who moves when. -/
def State.surroundings (s : State) : Params × Turn × List Turn := (s.params, s.turn, s.later)

theorem State.surroundings_eq_iff {s t : State} :
    t.surroundings = s.surroundings ↔ t.params = s.params ∧ t.turn = s.turn ∧ t.later = s.later := by
  simp [State.surroundings]

theorem surroundings_of_issue {w : Word} {build : Image → Tables} {s t : State} (h : issue w build s = .next t) :
    t.surroundings = s.surroundings := by
  rcases issue_cases h with ⟨_, -, rfl⟩ | ⟨_, -, -, rfl⟩ | ⟨-, -, -, rfl⟩ <;> rfl

theorem surroundings_of_engineStep {r : Running} {a : BusAnswer} {out : Nat → Nat → Rgb} {s t : State}
    (h : engineStep r a out s = .next t) : t.surroundings = s.surroundings := by
  obtain ⟨-, ⟨-, rfl⟩ | ⟨-, -, -, rfl⟩ | ⟨-, -, rfl⟩ | ⟨-, -, rfl⟩⟩ := engineStep_cases h
  · rfl
  · simp [State.surroundings]
  · rfl
  · rfl

theorem surroundings_of_exec {i : Instr} {s t : State} (h : exec i s = .next t) :
    t.surroundings = s.surroundings := by
  rcases exec_cases h with ⟨-, hissue⟩ | ⟨_, _, -, -, -, hstep⟩ | ⟨-, rfl⟩
  · exact surroundings_of_issue hissue
  · exact surroundings_of_engineStep hstep
  · rfl

theorem surroundings_of_writeCmd {w : Word} {s t : State} (hturn : s.turn = .host)
    (h : writeCmd exec w s = .next t) : t.surroundings = s.surroundings := by
  obtain ⟨_, hissue, -⟩ := writeCmd_cases hturn h
  exact surroundings_of_issue hissue

theorem State.resetBlock_surroundings (s : State) : s.resetBlock.surroundings = s.surroundings := by
  simp [State.surroundings]

theorem surroundings_of_writeReg {r : Reg} {d : Word} {s t : State} (hturn : s.turn = .host)
    (h : writeReg exec r d s = .next t) : t.surroundings = s.surroundings := by
  rcases writeReg_cases h with ⟨-, rfl⟩ | ⟨-, -, rfl⟩ | ⟨-, -, rfl⟩ | ⟨-, rfl⟩ | ⟨-, rfl⟩ | ⟨-, rfl⟩ | ⟨-, rfl⟩ |
    ⟨-, hcmd⟩
  case inr.inl => exact State.resetBlock_surroundings s
  case inr.inr.inr.inr.inr.inr.inr => exact surroundings_of_writeCmd hturn hcmd
  all_goals rfl

theorem surroundings_of_hostOp {op : HostOp} {s t : State} (hturn : s.turn = .host)
    (h : hostOp exec op s = .next t) : t.surroundings = s.surroundings := by
  rcases hostOp_cases h with ⟨_, _, -, rfl⟩ | ⟨_, _, _, -, hreg⟩ | ⟨_, _, _, -, -, rfl⟩ | ⟨_, _, _, -, -, rfl⟩ |
    ⟨-, -, rfl⟩ | ⟨-, -, rfl⟩ | ⟨_, -, rfl⟩ | ⟨_, _, -, rfl⟩
  case inr.inl => exact surroundings_of_writeReg hturn hreg
  all_goals simp [State.surroundings]

/-- A step is an event that keeps the surroundings, and then the turn passes on. -/
theorem step_surroundings {s t : State} (h : step s = .next t) :
    ∃ u : State, t = u.endTurn ∧ u.surroundings = s.surroundings := by
  obtain ⟨u, rfl, ⟨-, -, rfl⟩ | ⟨op, rest, hturn, -, hop⟩ | ⟨_, -, rfl⟩ | ⟨_, _, _, -, -, -, hexec⟩ | ⟨-, rfl⟩⟩ :=
    step_cases h
  · exact ⟨_, rfl, rfl⟩
  · exact ⟨_, rfl, surroundings_of_hostOp (s := { s with hostOps := rest }) hturn hop⟩
  · exact ⟨_, rfl, rfl⟩
  · exact ⟨_, rfl, surroundings_of_exec hexec⟩
  · exact ⟨_, rfl, s.resetBlock_surroundings⟩

theorem step_params {s t : State} (h : step s = .next t) : t.params = s.params := by
  obtain ⟨u, rfl, hu⟩ := step_surroundings h
  exact u.endTurn_params.trans (State.surroundings_eq_iff.1 hu).1

/-- After a host's turn with nothing scheduled comes the engine's, which memory serves: the model's alternation. -/
theorem turn_of_unscheduled_hostTurn {s t : State} (hturn : s.turn = .host) (hlater : s.later = [])
    (h : step s = .next t) : t.turn = .engine .served ∧ t.later = [] := by
  obtain ⟨u, rfl, hu⟩ := step_surroundings h
  obtain ⟨-, hut, hul⟩ := State.surroundings_eq_iff.1 hu
  simp [State.endTurn, hul, hlater, hut, hturn, Turn.following]

/-- Settles O59: CAPS reads the parameters alone, and no step changes them (`step_params`). -/
theorem parametersNeverChange : Obligations.ParametersNeverChange := fun s t h =>
  ⟨step_params h, by simp only [State.readReg, step_params h], rfl⟩

end Sys2Proof.Machine

/-! # What a step does to memory and to the engine

`MemoryEvent` says once how a step can change memory and the engine, and why; the statements about who writes memory,
about races and about the invariant read it off. -/

namespace Sys2Proof.Machine

/-- It is an engine's turn in which the running command's accesses are all answered (R107, R202). -/
def EngineAnswered (s : State) (r : Running) : Prop :=
  ∃ a, s.turn = .engine a ∧ r.unanswered = false ∧ s.params.answer r.shadow a ≠ .never

/-- Why memory and the engine of `t` are what they are, after a step from `s`. -/
inductive MemoryEvent (s t : State) : Prop where
  | kept (hmem : t.mem = s.mem) (hengine : t.engine = s.engine)
  | hostWrite (p : Word) (v : Byte) (rest : List HostOp) (hcause : Rule.hostDoes s (.memWrite p v) rest)
      (hmem : t.mem = s.mem.write p.toNat v) (hengine : t.engine = s.engine.noteHostWrite p.toNat)
  | launched (w : Word) (build : Image → Tables) (hidle : s.engine = .idle)
      (hcheck : issueCheck s.params w s.base s.width s.height = none)
      (hallowed : s.params.launchAllowed (s.shadowOf w).start (s.shadowOf w).stop = true)
      (hbuild : ∀ i, decode w = some i → build = tablesOf i)
      (hmem : t.mem = s.mem) (hengine : t.engine = .busy (s.launched w build))
  | ended (r : Running) (pixels : List Rgb) (hr : s.engine = .busy r)
      (hlength : pixels.length = r.shadow.pixelCount) (hcause : Rule.isReset s ∨ EngineAnswered s r)
      (hmem : t.mem = s.mem.writePixels r.shadow.start pixels) (hengine : t.engine = .idle)
  | stalled (r : Running) (hr : s.engine = .busy r)
      (hmem : t.mem = s.mem) (hengine : t.engine = .busy { r with unanswered := true })

/-! ### Each operation's event -/

/-- What command issue does on the host's turn (R105). -/
theorem memoryEvent_of_issue {w : Word} {build : Image → Tables} {s t : State} {rest : List HostOp}
    (hbuild : ∀ i, decode w = some i → build = tablesOf i)
    (h : issue w build { s with hostOps := rest } = .next t) : MemoryEvent s t := by
  rcases issue_cases h with ⟨_, -, rfl⟩ | ⟨_, hidle, -, rfl⟩ | ⟨hidle, hcheck, hallowed, rfl⟩
  · exact .kept rfl rfl
  · exact .kept rfl hidle.symm
  · exact .launched w build hidle hcheck hallowed hbuild rfl rfl

/-- Both forms of completion write one pixel per pixel of the region (R61 (b), R108). -/
theorem exists_pixels_of_complete (s : State) (r : Running) (out : Nat → Nat → Rgb) :
    ∃ pixels : List Rgb, pixels.length = r.shadow.pixelCount ∧
      (s.complete r out).mem = s.mem.writePixels r.shadow.start pixels := by
  cases hw : r.hostWrote with
  | false => exact ⟨outputPixels r.image out, by simp, s.complete_mem_clean r out hw⟩
  | true => exact ⟨freePixels s.freeDraws r.shadow.pixelCount, by simp, s.complete_mem_raced r out hw⟩

theorem memoryEvent_of_engineStep {r : Running} {a : BusAnswer} {out : Nat → Nat → Rgb} {s t : State}
    (hturn : s.turn = .engine a) (hr : s.engine = .busy r) (h : engineStep r a out s = .next t) : MemoryEvent s t := by
  obtain ⟨-, ⟨-, rfl⟩ | ⟨hans, rfl, hadm, rfl⟩ | ⟨hans, herr, rfl⟩ | ⟨-, -, rfl⟩⟩ := engineStep_cases h
  · exact .kept rfl rfl
  · have hserved : s.params.answer r.shadow .served = .served :=
      (s.params.answer_eq_served r.shadow .served).2 ⟨hadm, rfl⟩
    obtain ⟨pixels, hlength, hmem⟩ := exists_pixels_of_complete s r out
    exact .ended r pixels hr hlength (.inr ⟨.served, hturn, hans, by simp [hserved]⟩) hmem (s.complete_engine r out)
  · exact .ended r (freePixels s.freeDraws r.shadow.pixelCount) hr (by simp)
      (.inr ⟨a, hturn, hans, by simp [herr]⟩) rfl rfl
  · exact .stalled r hr rfl rfl

theorem memoryEvent_of_exec {i : Instr} {s t : State} (h : exec i s = .next t) : MemoryEvent s t := by
  rcases exec_cases h with ⟨-, hissue⟩ | ⟨_, r, hturn, hr, -, hstep⟩ | ⟨-, rfl⟩
  · refine memoryEvent_of_issue (rest := s.hostOps) (fun j hj => ?_) hissue
    rw [decode_encode] at hj
    cases hj
    rfl
  · exact memoryEvent_of_engineStep hturn hr hstep
  · exact .kept rfl rfl

theorem State.idle_or_running (s : State) : s.engine = .idle ∨ ∃ r, s.engine = .busy r := by
  cases s.engine with
  | idle => exact .inl rfl
  | busy r => exact .inr ⟨r, rfl⟩

/-- What a reset does, by the pin or within a CTRL write (R231, R232). -/
theorem memoryEvent_of_reset {s : State} (hcause : Rule.isReset s) (rest : List HostOp) :
    MemoryEvent s (State.resetBlock { s with hostOps := rest }) := by
  rcases s.idle_or_running with hidle | ⟨r, hr⟩
  · exact .kept (State.resetBlock_mem_idle _ hidle) ((State.resetBlock_engine _).trans hidle.symm)
  · exact .ended r (freePixels s.freeDraws r.shadow.pixelCount) hr (by simp) (.inl hcause)
      (State.resetBlock_mem_busy _ r hr) (State.resetBlock_engine _)

theorem memoryEvent_of_writeReg {s t : State} {off : Offset} {d : Word} {rest : List HostOp}
    (hdo : Rule.hostDoes s (.regWrite off 4 d) rest)
    (h : writeReg exec (regAt off) d { s with hostOps := rest } = .next t) : MemoryEvent s t := by
  rcases writeReg_cases h with ⟨-, rfl⟩ | ⟨hreg, hd, rfl⟩ | ⟨-, -, rfl⟩ | ⟨-, rfl⟩ | ⟨-, rfl⟩ | ⟨-, rfl⟩ | ⟨-, rfl⟩ |
    ⟨-, hcmd⟩
  case inr.inl => exact memoryEvent_of_reset (.inr ⟨_, rest, hdo, off, d, rfl, hreg, hd⟩) rest
  case inr.inr.inr.inr.inr.inr.inr =>
    obtain ⟨build, hissue, hbuild⟩ := writeCmd_cases (s := { s with hostOps := rest }) hdo.1 hcmd
    exact memoryEvent_of_issue (fun i hi => (hbuild i hi).2) hissue
  all_goals exact .kept rfl rfl

theorem memoryEvent_of_hostOp {s t : State} {op : HostOp} {rest : List HostOp} (hdo : Rule.hostDoes s op rest)
    (h : hostOp exec op { s with hostOps := rest } = .next t) : MemoryEvent s t := by
  rcases hostOp_cases h with ⟨_, _, -, rfl⟩ | ⟨_, _, _, rfl, -⟩ | ⟨_, _, _, -, -, rfl⟩ | ⟨_, _, _, -, -, rfl⟩ |
    ⟨-, -, rfl⟩ | ⟨-, -, rfl⟩ | ⟨_, -, rfl⟩ | ⟨p, v, rfl, rfl⟩
  case inr.inl =>
    obtain ⟨rfl, hreg⟩ := hostOp_regWrite_eq_next h
    exact memoryEvent_of_writeReg hdo hreg
  case inr.inr.inr.inr.inr.inr.inr => exact .hostWrite p v rest hdo rfl rfl
  all_goals exact .kept (by simp) (by simp)

/-! ### The step's event -/

/-- The turn's passing on touches neither memory nor the engine. -/
theorem MemoryEvent.endTurn {s u : State} (h : MemoryEvent s u) : MemoryEvent s u.endTurn := by
  cases h with
  | kept hmem hengine => exact .kept (by simpa) (by simpa)
  | hostWrite p v rest hcause hmem hengine => exact .hostWrite p v rest hcause (by simpa) (by simpa)
  | launched w build hidle hcheck hallowed hbuild hmem hengine =>
    exact .launched w build hidle hcheck hallowed hbuild (by simpa) (by simpa)
  | ended r pixels hr hlength hcause hmem hengine => exact .ended r pixels hr hlength hcause (by simpa) (by simpa)
  | stalled r hr hmem hengine => exact .stalled r hr (by simpa) (by simpa)

/-- Every step is one of the events. -/
theorem step_memoryEvent {s t : State} (h : step s = .next t) : MemoryEvent s t := by
  obtain ⟨u, rfl, hu⟩ := step_cases h
  refine MemoryEvent.endTurn ?_
  rcases hu with ⟨-, -, rfl⟩ | ⟨op, rest, hturn, hops, hop⟩ | ⟨_, -, rfl⟩ | ⟨_, _, _, -, -, -, hexec⟩ | ⟨hturn, rfl⟩
  · exact .kept rfl rfl
  · exact memoryEvent_of_hostOp ⟨hturn, hops⟩ hop
  · exact .kept rfl rfl
  · exact memoryEvent_of_exec hexec
  · exact memoryEvent_of_reset (.inl hturn) s.hostOps

/-! ### The canonical form, and who changes a byte -/

/-- Settles O57: memory changes by a byte write or by the engine's pixel writes, and both keep the form. -/
theorem everyStepKeepsMemoryCanonical : Obligations.EveryStepKeepsMemoryCanonical := by
  intro s t hwf h
  cases step_memoryEvent h with
  | kept hmem _ | launched _ _ _ _ _ _ hmem _ | stalled _ _ hmem _ => rwa [hmem]
  | hostWrite p v _ _ hmem _ => exact hmem ▸ Memory.wf_write s.mem p.toNat v hwf
  | ended r pixels _ _ _ hmem _ => exact hmem ▸ Memory.wf_writePixels pixels s.mem r.shadow.start hwf

/-- One pixel written per pixel of the region leaves every byte that is no colour byte of it (R57). -/
theorem read_writePixels_of_not_colour {sh : Shadow} {pixels : List Rgb} (hlength : pixels.length = sh.pixelCount)
    (m : Memory) {a : Nat} (ha : sh.isColour a = false) : (m.writePixels sh.start pixels).read a = m.read a :=
  Memory.read_writePixels_other pixels m sh.start a (hlength ▸ sh.isColour_false a ha)

/-- Settles O35: in the events that change memory, the byte is the host's or a colour byte of the region that ended. -/
theorem onlyHostAndEngineChangeMemory : Obligations.OnlyHostAndEngineChangeMemory := by
  intro s t a h hread
  cases step_memoryEvent h with
  | kept hmem _ | launched _ _ _ _ _ _ hmem _ | stalled _ _ hmem _ => exact absurd (by rw [hmem]) hread
  | hostWrite p v rest hcause hmem _ =>
    refine .inl ⟨p, v, rest, hcause, ?_⟩
    by_contra hne
    exact hread (by rw [hmem, Memory.read_write_other _ _ (Ne.symm hne)])
  | ended r pixels hr hlength hcause hmem _ =>
    refine .inr ⟨r, hr, ?_, hcause.symm.imp_left fun ⟨b, hturn, _⟩ => ⟨b, hturn⟩⟩
    by_contra hcolour
    exact hread (by rw [hmem, read_writePixels_of_not_colour hlength _ (by simpa using hcolour)])

/-- A command's completion leaves every byte that is no colour byte of its region. -/
theorem keepsOthers_of_engineStep {r : Running} {a : BusAnswer} {out : Nat → Nat → Rgb} {s t : State}
    (h : engineStep r a out s = .next t) : Rule.keepsOthers r s t := by
  intro b hb
  obtain ⟨-, ⟨-, rfl⟩ | ⟨-, -, -, rfl⟩ | ⟨-, -, rfl⟩ | ⟨-, -, rfl⟩⟩ := engineStep_cases h
  · rfl
  · exact s.complete_read_other r out b hb
  · exact s.loseRegion_read_other r.shadow b hb
  · rfl

theorem mem_of_issue {w : Word} {build : Image → Tables} {s t : State} (h : issue w build s = .next t) :
    t.mem = s.mem := by
  rcases issue_cases h with ⟨_, -, rfl⟩ | ⟨_, -, -, rfl⟩ | ⟨-, -, -, rfl⟩ <;> rfl

/-- Settles O34: of a command's events only the engine's step changes memory, and it keeps the other bytes. -/
theorem commandWritesOnlyColourBytes : Obligations.CommandWritesOnlyColourBytes := by
  intro i s t h
  rcases exec_cases h with ⟨-, hissue⟩ | ⟨a, r, hturn, hr, -, hstep⟩ | ⟨-, rfl⟩
  · have hmem := mem_of_issue hissue
    exact ⟨fun _ => hmem, fun _ => hmem, fun _ _ _ _ => by rw [hmem]⟩
  · refine ⟨fun hno => absurd hturn (hno a), fun hidle => by simp [hr] at hidle, fun q hq => ?_⟩
    obtain rfl : r = q := by simpa [hr] using hq
    exact keepsOthers_of_engineStep hstep
  · exact ⟨fun _ => rfl, fun _ => rfl, fun _ _ _ _ => rfl⟩

/-! ### Races -/

/-- A host write that keeps off a running region notes no race (R241 (c)). -/
theorem noteHostWrite_eq_self {e : Engine} {a : Nat} (h : ∀ r, e = .busy r → r.shadow.covers a = false) :
    e.noteHostWrite a = e := by
  cases e with
  | idle => rfl
  | busy r => simp [Engine.noteHostWrite, h r rfl]

/-- Settles O38: a race is noted by a host write only, and duty keeps that write off the region. -/
theorem disciplinedHostNeverRaces : Obligations.DisciplinedHostNeverRaces := by
  intro s t hno hduty h r' hr'
  cases step_memoryEvent h with
  | kept _ hengine => exact hno r' (hengine ▸ hr')
  | hostWrite p v rest hcause _ hengine =>
    have hoff : ∀ r, s.engine = .busy r → r.shadow.covers p.toNat = false := hduty hcause.1 _ rest hcause.2
    rw [hengine, noteHostWrite_eq_self hoff] at hr'
    exact hno r' hr'
  | launched w build _ _ _ _ _ hengine =>
    rw [hengine] at hr'
    cases hr'
    rfl
  | ended _ _ _ _ _ _ hengine => simp [hengine] at hr'
  | stalled r hr _ hengine =>
    rw [hengine] at hr'
    cases hr'
    exact hno r hr

end Sys2Proof.Machine

/-! # The invariant: it holds at reset, and every step keeps it

Its parts speak of the flags (`FlagEvent`), of memory and the engine (`MemoryEvent`), and of the parameters
(`step_params`); each part is kept by each of their events. -/

namespace Sys2Proof.Machine

/-! ### What the passed checks say (R201) -/

/-- A word whose checks pass is the word of a command. -/
theorem exists_eq_encode_of_passedChecks {p : Params} {w base : Word} {width height : Half}
    (h : issueCheck p w base width height = none) : ∃ i, w = encode i := by
  have hdecode : decode w ≠ none := fun hw => by simp [issueCheck_of_illegal hw] at h
  obtain ⟨i, hi⟩ := Option.ne_none_iff_exists'.1 hdecode
  exact ⟨i, eq_encode_of_decode hi⟩

/-- A region whose checks pass ends inside memory space. -/
theorem regionEnd_le_of_passedChecks {p : Params} {w base : Word} {width height : Half}
    (h : issueCheck p w base width height = none) :
    base.toNat + 4 * (width.toNat * height.toNat) ≤ 2 ^ 32 := by
  obtain ⟨-, -, -, -, -, hnone⟩ := issueReportsTheFirstFailingCheck p w base width height
  obtain ⟨-, -, -, -, hpast⟩ := hnone.1 h
  exact Nat.le_of_not_lt hpast

/-! ### The running command (R38, R71) -/

/-- sh_op keeps all that a command's word says (R70, R71). -/
theorem setWidth_opOf (i : Instr) : (opOf i).setWidth 32 = encode i := by
  cases i <;> rfl

/-- The command that runs is the one whose opcode the shadow holds. -/
theorem Shadow.command_eq_some_iff {sh : Shadow} {i : Instr} : sh.command = some i ↔ sh.op = opOf i := by
  rw [Shadow.command, decode_eq_some_iff, ← setWidth_opOf]
  exact ⟨fun h => by simpa [BitVec.setWidth_setWidth_of_le] using congrArg (BitVec.setWidth 2) h, fun h => h ▸ rfl⟩

/-- The shadow taken of a command's word holds its opcode. -/
theorem State.shadowOf_encode_op (s : State) (i : Instr) : (s.shadowOf (encode i)).op = opOf i := rfl

namespace Running.Good

variable {p : Params} {r : Running}

theorem exists_command (h : r.Good p) : ∃ i, r.shadow.command = some i := by
  obtain ⟨i, hi⟩ := exists_eq_encode_of_passedChecks h.checked
  exact ⟨i, decode_eq_some_iff.2 hi⟩

theorem stop_le (h : r.Good p) : r.shadow.stop ≤ 2 ^ 32 := regionEnd_le_of_passedChecks h.checked

/-- The model's notes on a running command are no part of what accept gave it. -/
theorem withNotes (h : r.Good p) (raced stuck : Bool) :
    Running.Good p { r with hostWrote := raced, unanswered := stuck } :=
  ⟨h.checked, h.launched, h.snapshotLength, h.tables⟩

end Running.Good

/-- What accept gives is good (R105, R106): the checks passed, the launch is inside the contract, and snapshot and
tables are built then. -/
theorem good_of_launched {s : State} {w : Word} {build : Image → Tables}
    (hcheck : issueCheck s.params w s.base s.width s.height = none)
    (hallowed : s.params.launchAllowed (s.shadowOf w).start (s.shadowOf w).stop = true)
    (hbuild : ∀ i, decode w = some i → build = tablesOf i) : (s.launched w build).Good s.params := by
  obtain ⟨i, rfl⟩ := exists_eq_encode_of_passedChecks hcheck
  refine ⟨?checked, hallowed, Memory.readPixels_length _ _ _, fun j hj => ?tables⟩
  case checked =>
    show issueCheck s.params ((opOf i).setWidth 32) s.base s.width s.height = none
    rwa [setWidth_opOf]
  case tables =>
    have hdecode : decode ((opOf i).setWidth 32) = some j := hj
    rw [setWidth_opOf] at hdecode
    obtain rfl := hbuild j hdecode
    rfl

/-! ### The snapshot (R55) -/

/-- A snapshot depends on the bytes of its region alone. -/
theorem Memory.readPixels_congr {m m' : Memory} {a n : Nat} (h : ∀ b, a ≤ b → b < a + 4 * n → m.read b = m'.read b) :
    m.readPixels a n = m'.readPixels a n := by
  induction n generalizing a with
  | zero => rfl
  | succ n ih =>
    simp only [Memory.readPixels, Memory.readPixel_eq]
    rw [ih fun b hlo hhi => h b (by omega) (by omega), h a (by omega) (by omega), h (a + 1) (by omega) (by omega),
      h (a + 2) (by omega) (by omega), h (a + 3) (by omega) (by omega)]

theorem State.snapshotOf_congr {s t : State} (hmem : t.mem = s.mem) (sh : Shadow) :
    t.snapshotOf sh = s.snapshotOf sh := by
  rw [State.snapshotOf, State.snapshotOf, hmem]

/-- A host write outside the region leaves its snapshot true. -/
theorem Memory.readPixels_write_of_not_covers {sh : Shadow} {a : Nat} (ha : sh.covers a = false) (m : Memory)
    (v : Byte) :
    (m.write a v).readPixels sh.start sh.pixelCount = m.readPixels sh.start sh.pixelCount := by
  refine Memory.readPixels_congr fun b hlo hhi => Memory.read_write_other m v ?_
  rintro rfl
  simp [(sh.covers_iff b).2 ⟨hlo, hhi⟩] at ha

/-! ### Each part of the invariant is kept -/

/-- The parts of the invariant about STATUS (R26, R100, R200). -/
structure StatusFlags.Consistent (f : StatusFlags) : Prop where
  noErrorNoCode : f.err = false → f.errcode = 0#4
  errorHasCode : f.err = true → 1 ≤ f.errcode.toNat ∧ f.errcode.toNat ≤ 6
  busyNoReport : f.busy = true → f.done = false ∧ f.err = false

theorem ErrorCode.code_range (e : ErrorCode) : 1 ≤ e.code.toNat ∧ e.code.toNat ≤ 6 := by
  cases e <;> decide

theorem State.Inv.flagsConsistent {s : State} (h : s.Inv) : s.flags.Consistent where
  noErrorNoCode := h.noErrorNoCode
  errorHasCode := h.errorHasCode
  busyNoReport hbusy := by
    rcases s.idle_or_running with hidle | ⟨r, hr⟩
    · simp [State.busy_of_idle hidle] at hbusy
    · exact h.runningNoReport r hr

/-- Bit 2 of a STATUS write clears ERR and ERRCODE together (R102). -/
theorem StatusFlags.written_err (f : StatusFlags) (d : Word) :
    ((f.written d).err = false ∧ (f.written d).errcode = 0#4) ∨
    ((f.written d).err = f.err ∧ (f.written d).errcode = f.errcode) := by
  cases hd : d.getLsbD 2 with
  | true => exact .inl (by simp only [StatusFlags.written, hd, Bool.not_true, Bool.and_false, if_true, and_self])
  | false =>
    exact .inr (by simp only [StatusFlags.written, hd, Bool.not_false, Bool.and_true, Bool.false_eq_true, if_false,
      and_self])

theorem StatusFlags.Consistent.written {f : StatusFlags} (h : f.Consistent) (d : Word) : (f.written d).Consistent := by
  have hbusy : (f.written d).busy = true → (f.written d).done = false ∧ (f.written d).err = false := fun hb => by
    obtain ⟨hdone, herr⟩ := h.busyNoReport hb
    simp [hdone, herr]
  rcases f.written_err d with ⟨herr, hcode⟩ | ⟨herr, hcode⟩
  · exact ⟨fun _ => hcode, fun htrue => absurd (herr.symm.trans htrue) (by decide), hbusy⟩
  · exact ⟨hcode ▸ herr ▸ h.noErrorNoCode, hcode ▸ herr ▸ h.errorHasCode, hbusy⟩

theorem flagsConsistent_step {s t : State} (h : s.flags.Consistent) (hevent : FlagEvent s t) :
    t.flags.Consistent := by
  cases hevent with
  | kept hf => exact hf ▸ h
  | reset _ hf => exact hf ▸ ⟨fun _ => rfl, nofun, nofun⟩
  | statusWrite d _ hf => exact hf ▸ h.written d
  | overrun _ _ _ hf => exact hf ▸ ⟨h.noErrorNoCode, h.errorHasCode, h.busyNoReport⟩
  | refused e _ hf => exact hf ▸ ⟨nofun, fun _ => e.code_range, nofun⟩
  | accepted _ hf => exact hf ▸ ⟨fun _ => rfl, nofun, fun _ => ⟨rfl, rfl⟩⟩
  | completed _ hf => exact hf ▸ ⟨h.noErrorNoCode, h.errorHasCode, nofun⟩
  | busError _ hf => exact hf ▸ ⟨nofun, fun _ => ErrorCode.code_range .bus, nofun⟩

/-- No event writes past memory space (R43 (b)): the host's addresses are words, and a good region ends inside. -/
theorem memInSpace_step {s t : State} (h : s.Inv) (hevent : MemoryEvent s t) : t.mem.inSpace = true := by
  cases hevent with
  | kept hmem _ | launched _ _ _ _ _ _ hmem _ | stalled _ _ hmem _ => exact hmem ▸ h.memInSpace
  | hostWrite p v _ _ hmem _ => exact hmem ▸ Memory.inSpace_write s.mem p.toNat v h.memInSpace p.isLt
  | ended r pixels hr hlength _ hmem _ =>
    refine hmem ▸ Memory.inSpace_writePixels pixels s.mem r.shadow.start h.memInSpace ?_
    rw [hlength]
    exact (h.runningGood r hr).stop_le

theorem runningGood_step {s t : State} (h : s.Inv) (hevent : MemoryEvent s t) {r' : Running}
    (hr' : t.engine = .busy r') : r'.Good s.params := by
  cases hevent with
  | kept _ hengine => exact h.runningGood r' (hengine ▸ hr')
  | hostWrite p v _ _ _ hengine =>
    rcases s.idle_or_running with hidle | ⟨r, hr⟩
    · simp [hengine, hidle, Engine.noteHostWrite] at hr'
    · obtain rfl : _ = r' := by simpa [hengine, hr, Engine.noteHostWrite] using hr'
      exact (h.runningGood r hr).withNotes _ _
  | launched w build _ hcheck hallowed hbuild _ hengine =>
    obtain rfl : _ = r' := by simpa [hengine] using hr'
    exact good_of_launched hcheck hallowed hbuild
  | ended _ _ _ _ _ _ hengine => simp [hengine] at hr'
  | stalled r hr _ hengine =>
    obtain rfl : _ = r' := by simpa [hengine] using hr'
    exact (h.runningGood r hr).withNotes _ _

/-- Until completion memory shows the snapshot unless the host raced (R55, R57, R61). -/
theorem runningSnapshot_step {s t : State} (h : s.Inv) (hevent : MemoryEvent s t) {r' : Running}
    (hr' : t.engine = .busy r') (hrace : r'.hostWrote = false) : t.snapshotOf r'.shadow = r'.snapshot := by
  cases hevent with
  | kept hmem hengine => rw [State.snapshotOf_congr hmem, h.runningSnapshot r' (hengine ▸ hr') hrace]
  | hostWrite p v _ _ hmem hengine =>
    rcases s.idle_or_running with hidle | ⟨r, hr⟩
    · simp [hengine, hidle, Engine.noteHostWrite] at hr'
    · obtain rfl : _ = r' := by simpa [hengine, hr, Engine.noteHostWrite] using hr'
      obtain ⟨hbefore, hoff⟩ : r.hostWrote = false ∧ r.shadow.covers p.toNat = false := by simpa using hrace
      rw [State.snapshotOf, hmem, Memory.readPixels_write_of_not_covers hoff]
      exact h.runningSnapshot r hr hbefore
  | launched w build _ _ _ _ hmem hengine =>
    obtain rfl : _ = r' := by simpa [hengine] using hr'
    exact State.snapshotOf_congr hmem _
  | ended _ _ _ _ _ _ hengine => simp [hengine] at hr'
  | stalled r hr hmem hengine =>
    obtain rfl : _ = r' := by simpa [hengine] using hr'
    exact (State.snapshotOf_congr hmem _).trans (h.runningSnapshot r hr hrace)

/-! ### The statements about the invariant -/

/-- Settles O56: each part is kept by its events, which are all that a step can do. -/
theorem everyStepKeepsTheInvariant : Obligations.EveryStepKeepsTheInvariant := by
  intro s t h hstep
  have hmemory : MemoryEvent s t := step_memoryEvent hstep
  have hflags : t.flags.Consistent := flagsConsistent_step h.flagsConsistent (step_flagEvent hstep)
  have hparams : t.params = s.params := step_params hstep
  exact {
    params := hparams ▸ h.params
    memCanonical := everyStepKeepsMemoryCanonical s t h.memCanonical hstep
    memInSpace := memInSpace_step h hmemory
    noErrorNoCode := hflags.noErrorNoCode
    errorHasCode := hflags.errorHasCode
    runningGood := fun r hr => hparams ▸ runningGood_step h hmemory hr
    runningNoReport := fun r hr => hflags.busyNoReport (State.busy_of_running hr)
    runningSnapshot := fun r hr hrace => runningSnapshot_step h hmemory hr hrace }

/-- R7's range: one more than a number below 65535 is not 0 in 16 bits. -/
theorem ofNat_succ_ne_zero (n : Fin 65535) : BitVec.ofNat 16 (n.val + 1) ≠ 0#16 := by
  have hn : n.val < 65535 := n.isLt
  rw [ne_eq, ← BitVec.toNat_inj, BitVec.toNat_ofNat, BitVec.toNat_ofNat]
  omega

/-- Settles O55: at reset memory lists nothing and the engine is IDLE, so only the parameters' range is left. -/
theorem invariantHoldsAtReset : Obligations.InvariantHoldsAtReset where
  params := ⟨ofNat_succ_ne_zero Config.maxWidthLessOne, ofNat_succ_ne_zero Config.maxHeightLessOne⟩
  memCanonical := rfl
  memInSpace := rfl
  noErrorNoCode := fun _ => rfl
  errorHasCode := nofun
  runningGood := nofun
  runningNoReport := nofun
  runningSnapshot := nofun

end Sys2Proof.Machine

/-! # The step that runs a command, and the transactions that wait or are refused (R53, R64, R77) -/

namespace Sys2Proof.Machine

/-! ### The step of a command -/

theorem writeCmd_of_command (run : Instr → State → Outcome) {w : Word} {i : Instr} (hw : decode w = some i)
    (s : State) : writeCmd run w s = run i s := by
  simp only [writeCmd, hw]

/-- On the engine's turn the step is the event of the command that sh_op names (R38, R107). -/
theorem step_of_engineTurn {s : State} {a : BusAnswer} {r : Running} {i : Instr} (hturn : s.turn = .engine a)
    (hr : s.engine = .busy r) (hi : r.shadow.command = some i) : step s = mapNext State.endTurn (exec i s) := by
  simp only [step, stepWith, event, hturn, engineTurn, hr, hi]

/-- An IDLE engine does nothing on its turn (R57, R216). -/
theorem step_of_idleEngineTurn {s : State} {a : BusAnswer} (hturn : s.turn = .engine a) (hidle : s.engine = .idle) :
    step s = .next s.endTurn := by
  simp only [step, stepWith, event, hturn, engineTurn, hidle, mapNext]

/-- A word of 32 bits is read whole (R64). -/
theorem fetchWord_encode (i : Instr) : BitVec.ofNat 32 ((encode i).toNat % 2 ^ 32) = encode i := by
  cases i <;> rfl

/-- `withFetchWord` puts the CMD write of a command first, on the host's turn. -/
theorem hostDoes_withFetchWord (s : State) (i : Instr) :
    Rule.hostDoes (s.withFetchWord 32 (encode i).toNat) (.regWrite 0x0C#6 4 (encode i)) s.hostOps :=
  ⟨rfl, by rw [State.withFetchWord, fetchWord_encode, cmdWrite]⟩

/-- On the host's turn a CMD write of a command runs it (R64, R105). -/
theorem step_of_commandWrite {s : State} {w : Word} {rest : List HostOp} {i : Instr}
    (hdo : Rule.hostDoes s (.regWrite 0x0C#6 4 w) rest) (hw : decode w = some i) :
    step s = mapNext State.endTurn (exec i { s with hostOps := rest }) := by
  rw [step_of_cmdWrite hdo, writeCmd_of_command exec hw]

/-- Settles O4: the CMD write, the engine's turn, and the CMD write that `withFetchWord` puts first. -/
theorem stepRunsTheDecodedCommand : Obligations.StepRunsTheDecodedCommand :=
  ⟨fun _ _ _ _ => step_of_commandWrite, fun _ _ _ _ => step_of_engineTurn,
    fun s i => step_of_commandWrite (hostDoes_withFetchWord s i) (decode_encode i)⟩

/-! ### Accesses outside the contract (R53 (b)) -/

theorem step_of_badRegWrite {s : State} {off : Offset} {size : Nat} {d : Word} {rest : List HostOp}
    (hdo : Rule.hostDoes s (.regWrite off size d) rest) (hacc : wellFormedAccess off size = false) :
    step s = .refused .registerAccessNotWord := by
  simp only [step_of_hostDoes hdo, hostOp, hacc, mapNext, Bool.false_eq_true, if_false]

theorem step_of_badPoll {s : State} {off : Offset} {mask val : Word} {rest : List HostOp}
    (hdo : Rule.hostDoes s (.poll off mask val) rest) (hacc : wellFormedAccess off 4 = false) :
    step s = .refused .registerAccessNotWord := by
  simp only [step_of_hostDoes hdo, hostOp, hacc, mapNext, Bool.false_eq_true, if_false]

theorem wellFormedAccess_eq_false_iff {off : Offset} {size : Nat} :
    wellFormedAccess off size = false ↔ ¬(size = 4 ∧ off.toNat % 4 = 0) := by
  rw [← wellFormedAccess_iff, Bool.not_eq_true]

/-- Settles O11: the access contract is R53's, and outside it both transactions are refused. -/
theorem narrowOrMisalignedAccessIsRefused : Obligations.NarrowOrMisalignedAccessIsRefused := fun _ _ _ =>
  ⟨fun _ _ hdo hbad => step_of_badRegWrite hdo (wellFormedAccess_eq_false_iff.2 hbad),
    fun _ _ hdo hodd => step_of_badPoll hdo (wellFormedAccess_eq_false_iff.2 fun hacc => hodd hacc.2)⟩

/-! ### Waiting (R77) -/

/-- No register shows the host's list. -/
theorem State.readReg_withHostOps (s : State) (ops : List HostOp) (r : Reg) :
    State.readReg { s with hostOps := ops } r = s.readReg r := by
  cases r <;> rfl

/-- A POLL reads its register; the awaited value takes it from the list, any other leaves it there. -/
theorem answers_of_poll {s : State} {off : Offset} {mask val : Word} {rest : List HostOp}
    (hdo : Rule.hostDoes s (.poll off mask val) rest) (hacc : wellFormedAccess off 4 = true) :
    Rule.answers s (s.hostReadsReg (regAt off))
      (if s.readReg (regAt off) &&& mask = val then rest else .poll off mask val :: rest) := by
  simp only [Rule.answers, step_of_hostDoes hdo, hostOp, hacc, if_true, State.readReg_withHostOps]
  rw [State.hostReadsReg_withHostOps]
  split_ifs <;> rfl

theorem answers_of_waitIrq {s : State} {rest : List HostOp} (hdo : Rule.hostDoes s .waitIrq rest) :
    Rule.answers s s (if s.irq then rest else .waitIrq :: rest) := by
  have hirq : State.irq { s with hostOps := rest } = s.irq := rfl
  simp only [Rule.answers, step_of_hostDoes hdo, hostOp, hirq]
  split_ifs <;> rfl

/-- Settles O12: the register read is R100's word, and each wait stays in the list until its event. -/
theorem pollAndWaitRepeatUntilTheirEvent : Obligations.PollAndWaitRepeatUntilTheirEvent := by
  refine ⟨fun s off mask val rest hdo hoff => ?_, fun _ _ => answers_of_waitIrq⟩
  dsimp only
  rw [← s.readReg_regAt hoff]
  exact answers_of_poll hdo (wellFormedAccess_iff.2 ⟨rfl, hoff⟩)

end Sys2Proof.Machine

/-! # Command issue: dropped, refused, outside the contract or accepted (R105, R201, R203, R241) -/

namespace Sys2Proof.Machine

/-- On the host's turn a CMD write is an issue, whatever its word. -/
theorem exists_writeCmd_eq_issue {s : State} (hturn : s.turn = .host) (w : Word) :
    ∃ build, writeCmd exec w s = issue w build s := by
  cases hw : decode w with
  | none => exact ⟨_, writeCmd_of_illegal hw s⟩
  | some i =>
    obtain rfl := eq_encode_of_decode hw
    exact ⟨_, (writeCmd_of_command exec hw s).trans (exec_of_hostTurn hturn i)⟩

/-- The step of a CMD write is its issue. -/
theorem exists_step_eq_issue {s : State} {w : Word} {rest : List HostOp}
    (hdo : Rule.hostDoes s (.regWrite 0x0C#6 4 w) rest) :
    ∃ build, step s = mapNext State.endTurn (issue w build { s with hostOps := rest }) := by
  obtain ⟨build, hissue⟩ := exists_writeCmd_eq_issue (s := { s with hostOps := rest }) hdo.1 w
  exact ⟨build, by rw [step_of_cmdWrite hdo, hissue]⟩

/-- Settles O14: the three outcomes of issue. -/
theorem commandIssue : Obligations.CommandIssue := by
  intro s w rest hdo
  obtain ⟨build, hstep⟩ := exists_step_eq_issue hdo
  refine ⟨fun hb => ?dropped, fun e hidle he => ?refused, fun hidle hn hl => ?accepted⟩
  case dropped =>
    rw [issue_of_busy (s := { s with hostOps := rest }) hb] at hstep
    exact hstep
  case refused =>
    rw [issue_of_failedCheck (s := { s with hostOps := rest }) hidle he,
      State.completeWithError_of_idle (s := { s with hostOps := rest }) hidle] at hstep
    exact hstep
  case accepted =>
    rw [issue_of_passedChecks (s := { s with hostOps := rest }) hidle hn hl] at hstep
    exact ⟨_, hstep, by simp [State.busy], by simp, by simp, by simp⟩

/-- Settles O16: of the outcomes of issue only accept leaves an IDLE engine running. -/
theorem acceptBuildsTheTables : Obligations.AcceptBuildsTheTables := by
  intro i s t r hturn hidle h hr
  rw [exec_of_hostTurn hturn] at h
  rcases issue_cases h with ⟨q, hq, -⟩ | ⟨e, -, -, rfl⟩ | ⟨-, -, -, rfl⟩
  · simp [hidle] at hq
  · simp at hr
  · obtain rfl : _ = r := by simpa using hr
    exact ⟨rfl, rfl, rfl⟩

/-- The checks of R201 report the codes 1 to 5; code 6 is the bus's (R200). -/
theorem code_le_of_failedCheck {p : Params} {w base : Word} {width height : Half} {e : ErrorCode}
    (h : issueCheck p w base width height = some e) : e.code.toNat ≤ 5 := by
  have hfirst := issueCheck_firstFailing p w base width height
  rw [h] at hfirst
  cases hfirst <;> decide

/-- Settles O18: the command's event is its issue, whose failed check completes with the error. -/
theorem refusedCommandChangesOnlyTheReport : Obligations.RefusedCommandChangesOnlyTheReport := by
  intro i s e hturn hidle he
  refine ⟨?_, e.code_range.1, code_le_of_failedCheck he⟩
  rw [exec_of_hostTurn hturn, issue_of_failedCheck hidle he, State.completeWithError_of_idle hidle]

/-! ### The launch contract (R241) -/

theorem issue_of_forbiddenLaunch {s : State} {w : Word} (hidle : s.engine = .idle)
    (hn : issueCheck s.params w s.base s.width s.height = none)
    (hl : s.params.launchAllowed (s.shadowOf w).start (s.shadowOf w).stop = false) (build : Image → Tables) :
    issue w build s = .refused .launchOutsideContract := by
  simp only [issue, hidle, hn, hl, Bool.false_eq_true, if_false]

/-- A command whose checks pass is refused exactly if its launch is not allowed. -/
theorem issue_eq_refused_iff {s : State} {w : Word} (hidle : s.engine = .idle)
    (hn : issueCheck s.params w s.base s.width s.height = none) (build : Image → Tables) :
    issue w build s = .refused .launchOutsideContract ↔
      s.params.launchAllowed (s.shadowOf w).start (s.shadowOf w).stop = false := by
  refine ⟨fun h => ?_, fun hl => issue_of_forbiddenLaunch hidle hn hl build⟩
  by_contra hl
  rw [issue_of_passedChecks hidle hn (by simpa using hl)] at h
  cases h

/-- A command whose checks pass has a pixel (R201). -/
theorem pixelCount_pos_of_passedChecks {p : Params} {w base : Word} {width height : Half}
    (h : issueCheck p w base width height = none) : 0 < width.toNat * height.toNat := by
  obtain ⟨-, -, -, -, -, hnone⟩ := issueReportsTheFirstFailingCheck p w base width height
  obtain ⟨-, hzero, -⟩ := hnone.1 h
  obtain ⟨hw, hh⟩ := not_or.1 hzero
  exact Nat.mul_pos (Nat.pos_of_ne_zero hw) (Nat.pos_of_ne_zero hh)

/-- A launch is forbidden by the block's own window, or by a listed one that is not ordinary memory. -/
theorem Params.launchAllowed_eq_false_iff {p : Params} {lo hi : Nat} :
    p.launchAllowed lo hi = false ↔ p.registerWindow.meets lo hi = true ∨
      ∃ w ∈ p.windows, w.kind = .notOrdinary ∧ w.meets lo hi = true := by
  have hkind : p.registerWindow.kind = .notOrdinary := rfl
  rw [Params.launchAllowed, Bool.not_eq_false', List.any_cons, Bool.or_eq_true]
  simp [hkind]

/-- The block's window covers 64 addresses (R23), so a region that is not empty meets it where the two overlap. -/
theorem Params.registerWindow_meets_iff {p : Params} {lo hi : Nat} (hne : lo < hi) :
    p.registerWindow.meets lo hi = true ↔ lo < p.regBase + 64 ∧ p.regBase < hi := by
  rw [Window.meets, decide_eq_true_eq]
  show max lo p.regBase < min hi (p.regBase + 64) ↔ _
  omega

/-- Settles O17: the refusal is that of issue, and the two kinds of windows forbid a launch. -/
theorem launchOutsideTheContractIsRefused : Obligations.LaunchOutsideTheContractIsRefused := by
  intro i s hturn hidle hn lo hi
  have hne : lo < hi := Nat.lt_add_of_pos_right (Nat.mul_pos (by decide) (pixelCount_pos_of_passedChecks hn))
  rw [exec_of_hostTurn hturn, issue_eq_refused_iff hidle hn]
  show s.params.launchAllowed lo hi = false ↔ _
  rw [Params.launchAllowed_eq_false_iff, Params.registerWindow_meets_iff hne]
  simp only [Window.meets_iff]

/-! ### The first command after reset (R230) -/

/-- Reset leaves WIDTH and HEIGHT 0, which the second check reports. -/
theorem issueCheck_reset (i : Instr) : issueCheck State.reset.params (encode i) State.reset.base State.reset.width
    State.reset.height = some .zeroDim := by
  cases i <;> rfl

/-- Settles O42: the command is refused with ZERO_DIM (`refusedCommandChangesOnlyTheReport`). -/
theorem firstCommandAfterResetIsZeroDim : Obligations.FirstCommandAfterResetIsZeroDim := by
  intro i
  obtain ⟨hexec, -⟩ := refusedCommandChangesOnlyTheReport i State.reset .zeroDim rfl rfl (issueCheck_reset i)
  have hstep := step_of_commandWrite (hostDoes_withFetchWord State.reset i) (decode_encode i)
  exact ⟨_, hstep.trans (congrArg (mapNext State.endTurn) hexec), by decide, rfl, rfl, rfl⟩

end Sys2Proof.Machine

/-! # A good machine goes on (R107, R202) -/

namespace Sys2Proof.Machine

/-! ### What answers with a next state -/

theorem exists_next_of_engineStep {r : Running} (hspace : r.shadow.stop ≤ 2 ^ 32) (a : BusAnswer)
    (out : Nat → Nat → Rgb) (s : State) : ∃ t, engineStep r a out s = .next t := by
  unfold engineStep
  rw [if_neg (Nat.not_lt.2 hspace)]
  split
  · exact ⟨_, rfl⟩
  · split <;> exact ⟨_, rfl⟩

/-- A good machine's engine turn always ends in a next state. -/
theorem exists_next_of_engineTurn {s : State} {a : BusAnswer} (hinv : s.Inv) (hturn : s.turn = .engine a) :
    ∃ t, step s = .next t := by
  rcases s.idle_or_running with hidle | ⟨r, hr⟩
  · exact ⟨_, step_of_idleEngineTurn hturn hidle⟩
  · have hgood : r.Good s.params := hinv.runningGood r hr
    obtain ⟨i, hi⟩ := hgood.exists_command
    obtain ⟨t, ht⟩ := exists_next_of_engineStep hgood.stop_le a (outputOf i r.image r.tables) s
    exact ⟨t.endTurn, by
      rw [step_of_engineTurn hturn hr hi, exec_of_engineTurn hturn hr (Shadow.command_eq_some_iff.1 hi), ht, mapNext]⟩

/-- Issue refuses only the launch that `opDefined` excludes. -/
theorem exists_next_of_issue {s : State} {w : Word}
    (h : s.engine = .idle → issueCheck s.params w s.base s.width s.height = none →
      s.params.launchAllowed (s.shadowOf w).start (s.shadowOf w).stop = true) (build : Image → Tables) :
    ∃ t, issue w build s = .next t := by
  rcases s.idle_or_running with hidle | ⟨r, hr⟩
  · cases hcheck : issueCheck s.params w s.base s.width s.height with
    | some e => exact ⟨_, issue_of_failedCheck hidle hcheck build⟩
    | none => exact ⟨_, issue_of_passedChecks hidle hcheck (h hidle hcheck) build⟩
  · exact ⟨_, issue_of_busy (State.busy_of_running hr) w build⟩

/-- A register write answers unless it is a CMD write whose issue does not. -/
theorem exists_next_of_writeReg {s : State} {r : Reg} {d : Word} (hturn : s.turn = .host)
    (h : r = .cmd → s.engine = .idle → issueCheck s.params d s.base s.width s.height = none →
      s.params.launchAllowed (s.shadowOf d).start (s.shadowOf d).stop = true) :
    ∃ t, writeReg exec r d s = .next t := by
  cases r with
  | cmd =>
    obtain ⟨build, hissue⟩ := exists_writeCmd_eq_issue hturn d
    obtain ⟨t, ht⟩ := exists_next_of_issue (h rfl) build
    exact ⟨t, hissue.trans ht⟩
  | id | ctrl | status | base | width | height | caps | reserved => exact ⟨_, rfl⟩

/-- A transaction that has a meaning is answered with a next state. -/
theorem exists_next_of_opDefined {s : State} {op : HostOp} (hturn : s.turn = .host) (h : s.opDefined op) :
    ∃ t, hostOp exec op s = .next t := by
  cases op with
  | regRead off size => exact ⟨_, if_pos h⟩
  | regWrite off size d =>
    obtain ⟨hacc, hcmd⟩ := h
    obtain ⟨t, ht⟩ := exists_next_of_writeReg hturn hcmd
    exact ⟨t, (if_pos hacc).trans ht⟩
  | poll off mask val =>
    by_cases hv : s.readReg (regAt off) &&& mask = val
    · exact ⟨_, (if_pos h).trans (if_pos hv)⟩
    · exact ⟨_, (if_pos h).trans (if_neg hv)⟩
  | waitIrq =>
    by_cases hq : s.irq = true
    · exact ⟨_, if_pos hq⟩
    · exact ⟨_, if_neg hq⟩
  | memRead a => exact ⟨_, if_pos h⟩
  | memWrite a v => exact ⟨_, if_pos h⟩

/-! ### The host's turn never faults -/

theorem issue_ne_fault (w : Word) (build : Image → Tables) (s : State) (f : Fault) : issue w build s ≠ .fault f := by
  unfold issue
  split
  · nofun
  · split
    · nofun
    · split <;> nofun

theorem writeReg_ne_fault {s : State} (hturn : s.turn = .host) (r : Reg) (d : Word) (f : Fault) :
    writeReg exec r d s ≠ .fault f := by
  cases r with
  | cmd =>
    obtain ⟨build, hissue⟩ := exists_writeCmd_eq_issue hturn d
    rw [writeReg_cmd, hissue]
    exact issue_ne_fault d build s f
  | id | ctrl | status | base | width | height | caps | reserved => nofun

theorem hostOp_ne_fault {s : State} (hturn : s.turn = .host) (op : HostOp) (f : Fault) :
    hostOp exec op s ≠ .fault f := by
  cases op with
  | regWrite off size d =>
    simp only [hostOp]
    split
    · exact writeReg_ne_fault hturn _ d f
    · nofun
  | poll off mask val =>
    simp only [hostOp]
    split
    · split <;> nofun
    · nofun
  | regRead off size | waitIrq | memRead a | memWrite a v =>
    simp only [hostOp]
    split <;> nofun

theorem mapNext_ne_fault {o : Outcome} {f : Fault} (h : o ≠ .fault f) (g : State → State) :
    mapNext g o ≠ .fault f := by
  cases o with
  | next s => nofun
  | fault r => exact h
  | refused r => nofun

/-- The step on the host's turn with nothing to do. -/
theorem step_of_emptyHostTurn {s : State} (hturn : s.turn = .host) (hops : s.hostOps = []) :
    step s = .next s.endTurn := by
  simp only [step, stepWith, event, hturn, hostTurn, hops, mapNext]

/-! ### The statements about progress -/

/-- Settles O58: only an engine's turn can fault, and a good one does not; a transaction with a meaning is answered. -/
theorem goodMachineGoesOn : Obligations.GoodMachineGoesOn := by
  intro s hinv
  cases hturn : s.turn with
  | host =>
    cases hops : s.hostOps with
    | nil =>
      have hstep := step_of_emptyHostTurn hturn hops
      exact ⟨by simp [hstep], fun _ => ⟨_, hstep⟩⟩
    | cons op rest =>
      have hstep := step_of_hostDoes (s := s) ⟨hturn, hops⟩
      have hnoFault : ∀ f, step s ≠ .fault f := fun f =>
        hstep ▸ mapNext_ne_fault (hostOp_ne_fault (s := { s with hostOps := rest }) hturn op f) _
      refine ⟨hnoFault, fun hdefined => ?_⟩
      have hop : State.opDefined { s with hostOps := rest } op := by
        have hop := hdefined hturn op rest hops
        cases op <;> exact hop
      obtain ⟨t, ht⟩ := exists_next_of_opDefined (s := { s with hostOps := rest }) hturn hop
      exact ⟨t.endTurn, by rw [hstep, ht, mapNext]⟩
  | engine a =>
    obtain ⟨t, ht⟩ := exists_next_of_engineTurn hinv hturn
    exact ⟨by simp [ht], fun _ => ⟨t, ht⟩⟩
  | resetPin => exact ⟨by simp [step_of_resetPin hturn], fun _ => ⟨_, step_of_resetPin hturn⟩⟩

/-- Settles O33: a good running command is the one sh_op names and ends inside memory space, so a served turn completes
it; ERR was 0 while BUSY. -/
theorem runningCommandCompletes : Obligations.RunningCommandCompletes := by
  refine ⟨fun s r hinv hturn hr hadm hans => ?_, fun _ _ => turn_of_unscheduled_hostTurn⟩
  have hgood : r.Good s.params := hinv.runningGood r hr
  obtain ⟨i, hi⟩ := hgood.exists_command
  have hstep : step s = .next (s.complete r (outputOf i r.image r.tables)).endTurn := by
    rw [step_of_engineTurn hturn hr hi, exec_of_engineTurn hturn hr (Shadow.command_eq_some_iff.1 hi),
      engineStep_of_served hgood.stop_le hadm hans, mapNext]
  exact ⟨_, hstep, State.busy_of_idle (by simp), by simp, by simpa using (hinv.runningNoReport r hr).2⟩

end Sys2Proof.Machine

/-! # How memory's answer ends a command, or does not (R202) -/

namespace Sys2Proof.Machine

/-! ### The answer to a command's accesses -/

/-- The command gets an error response exactly where the rule says so. -/
theorem Params.answer_eq_error_iff {p : Params} {sh : Shadow} {a : BusAnswer} :
    p.answer sh a = .error ↔ Rule.getsError p sh a := by
  rcases p.answer_cases sh a with ⟨hadm, heq⟩ | ⟨hadm, hcause, heq⟩ | ⟨hadm, hne, hsome, heq⟩
  · simp [Rule.getsError, heq, hadm]
  · have hnot : ¬(a = .error ∧ p.admitsSome sh = true) := by
      rintro ⟨rfl, hsome⟩
      simp [hsome] at hcause
    cases hfault : p.memFault <;> simp [Rule.getsError, heq, hadm, hcause, hnot, hfault, MemFaultResponse.answer]
  · simp [Rule.getsError, heq, hadm, hne, hsome]

/-- The command meets an access that is never answered exactly where the rule says so. -/
theorem Params.answer_eq_never_iff {p : Params} {sh : Shadow} {a : BusAnswer} :
    p.answer sh a = .never ↔ Rule.neverAnswered p sh a := by
  rcases p.answer_cases sh a with ⟨hadm, heq⟩ | ⟨hadm, hcause, heq⟩ | ⟨hadm, hne, hsome, heq⟩
  · simp [Rule.neverAnswered, heq, hadm]
  · have hnot : ¬(a = .never ∧ p.admitsSome sh = true) := by
      rintro ⟨rfl, hsome⟩
      simp [hsome] at hcause
    cases hfault : p.memFault <;> simp [Rule.neverAnswered, heq, hadm, hcause, hnot, hfault, MemFaultResponse.answer]
  · simp [Rule.neverAnswered, heq, hadm, hne, hsome]

/-! ### The engine's step of each answer -/

section EngineStep

variable {s : State} {r : Running} {a : BusAnswer} {out : Nat → Nat → Rgb}

theorem engineStep_of_unanswered (hspace : r.shadow.stop ≤ 2 ^ 32) (hans : r.unanswered = true) :
    engineStep r a out s = .next s := by
  simp only [engineStep, if_neg (Nat.not_lt.2 hspace), hans, if_true]

theorem engineStep_of_error (hspace : r.shadow.stop ≤ 2 ^ 32) (hans : r.unanswered = false)
    (herror : s.params.answer r.shadow a = .error) : engineStep r a out s = .next (s.busError r) := by
  simp only [engineStep, if_neg (Nat.not_lt.2 hspace), hans, herror, Bool.false_eq_true, if_false]

theorem engineStep_of_never (hspace : r.shadow.stop ≤ 2 ^ 32) (hans : r.unanswered = false)
    (hnever : s.params.answer r.shadow a = .never) : engineStep r a out s = .next (s.stall r) := by
  simp only [engineStep, if_neg (Nat.not_lt.2 hspace), hans, hnever, Bool.false_eq_true, if_false]

end EngineStep

/-- Settles O28: the rule's two causes are the model's two answers, and a noted access outlasts every answer. -/
theorem busErrorLosesTheRegion : Obligations.BusErrorLosesTheRegion := by
  intro i s r a hturn hr hop hspace hwf
  have hexec := exec_of_engineTurn hturn hr hop
  refine ⟨fun hans herror => ?_, fun hans hnever => ?_, fun hans => ?_⟩
  · refine ⟨s.busError r, ?_, rfl, fun b hb => s.loseRegion_read_other r.shadow b hb,
      fun k hk c => s.loseRegion_read_colour r.shadow k c hwf hk⟩
    rw [hexec, engineStep_of_error hspace hans (Params.answer_eq_error_iff.2 herror)]
  · rw [hexec, engineStep_of_never hspace hans (Params.answer_eq_never_iff.2 hnever), State.stall]
  · rw [hexec, engineStep_of_unanswered hspace hans]

/-! ### The stuck command -/

/-- While a command goes on running, no step sets DONE or ERR. -/
theorem report_of_still_busy {s t : State} (h : step s = .next t) (hs : s.busy = true) (ht : t.busy = true) :
    (t.done = true → s.done = true) ∧ (t.err = true → s.err = true) := by
  cases step_flagEvent h with
  | kept hf | statusWrite _ _ hf | overrun _ _ _ hf | accepted _ hf => simp_all [State.flags_eq_iff]
  | reset _ hf | refused _ _ hf | completed _ hf | busError _ hf =>
    have hidle : t.busy = false := (State.flags_eq_iff.1 hf).1
    simp [hidle] at ht

/-- Without a reset, and in no turn that answers its accesses, the command goes on running. -/
theorem still_running_of_not_answered {s t : State} {r : Running} (hr : s.engine = .busy r) (hreset : ¬ Rule.isReset s)
    (hans : ¬ EngineAnswered s r) (h : step s = .next t) :
    ∃ r', t.engine = .busy r' ∧ r'.shadow = r.shadow ∧ (r.unanswered = true → r'.unanswered = true) := by
  cases step_memoryEvent h with
  | kept _ hengine => exact ⟨r, hengine.trans hr, rfl, id⟩
  | hostWrite _ _ _ _ _ hengine =>
    rw [hr] at hengine
    exact ⟨_, hengine, rfl, id⟩
  | launched _ _ hidle => simp [hr] at hidle
  | ended q _ hq _ hcause _ _ =>
    obtain rfl : r = q := by simpa [hr] using hq
    exact absurd hcause (not_or.2 ⟨hreset, hans⟩)
  | stalled q hq _ hengine =>
    obtain rfl : r = q := by simpa [hr] using hq
    exact ⟨_, hengine, rfl, fun _ => rfl⟩

/-- Where MEM_FAULT_RESPONSE is HANG, a region not wholly admitted is answered by no turn but an error response. -/
theorem not_engineAnswered_of_hang {s : State} {r : Running}
    (hadm : s.params.admits r.shadow.start r.shadow.stop = false) (hhang : s.params.memFault = .hang)
    (hnoError : s.turn ≠ .engine .error ∨ s.params.admitsSome r.shadow = false) :
    ¬ EngineAnswered s r := by
  rintro ⟨a, hturn, -, hanswered⟩
  rcases s.params.answer_cases r.shadow a with ⟨hadm', -⟩ | ⟨-, -, heq⟩ | ⟨-, hserved, hsome, heq⟩
  · simp [hadm] at hadm'
  · exact hanswered (by rw [heq, hhang, MemFaultResponse.answer])
  · cases a with
    | served => exact hserved rfl
    | error => simp [hturn, hsome] at hnoError
    | never => exact hanswered heq

/-- Settles O29: a turn that ends the command answers all its accesses, which neither premise allows. -/
theorem onlyResetEndsAStuckCommand : Obligations.OnlyResetEndsAStuckCommand := by
  intro s t r hr hreset h
  have hbusy : s.busy = true := State.busy_of_running hr
  refine ⟨fun hstuck => ?_, fun hadm hhang hnoError => ?_⟩
  · have hans : ¬ EngineAnswered s r := fun ⟨_, _, hno, _⟩ => by simp [hstuck] at hno
    obtain ⟨r', hr', hshadow, hkept⟩ := still_running_of_not_answered hr hreset hans h
    obtain ⟨hdone, herr⟩ := report_of_still_busy h hbusy (State.busy_of_running hr')
    exact ⟨r', hr', hshadow, hkept hstuck, step_params h, hdone, herr⟩
  · have hans : ¬ EngineAnswered s r := not_engineAnswered_of_hang hadm hhang hnoError
    obtain ⟨r', hr', hshadow, -⟩ := still_running_of_not_answered hr hreset hans h
    exact ⟨r', hr', hshadow, step_params h, (report_of_still_busy h hbusy (State.busy_of_running hr')).1⟩

end Sys2Proof.Machine

/-! # What a command's result depends on (R12, R38, R55) -/

namespace Sys2Proof.Machine

/-- Settles O30: the output is a function of the image and the tables, and the tables of the image. -/
theorem outputsDependOnlyOnSnapshotAndSize : Obligations.OutputsDependOnlyOnSnapshotAndSize := by
  intro i s s' r r' h h' htables htables' hsnap hwidth hheight
  obtain ⟨t, hexec, -, -, -, hout⟩ := successfulCompletionWritesEveryOutput i s r h
  obtain ⟨t', hexec', -, -, -, hout'⟩ := successfulCompletionWritesEveryOutput i s' r' h'
  have himage : r'.image = r.image := by rw [Running.image, Running.image, hsnap, hwidth, hheight]
  refine ⟨t, t', hexec, hexec', fun x y c hx hy => ?_⟩
  rw [hout x y c hx hy, hout' x y c (hwidth ▸ hx) (hheight ▸ hy), htables, htables', himage]

/-! ### Rewritten operand registers (R38, R244) -/

/-- `s` with the operand registers rewritten. -/
def State.withOperands (b : Word) (w h : Half) (s : State) : State := { s with base := b, width := w, height := h }

/-- A completion reads the shadow, and no operand register. -/
theorem State.complete_withOperands (b : Word) (w h : Half) (s : State) (r : Running) (out : Nat → Nat → Rgb) :
    (s.withOperands b w h).complete r out = (s.complete r out).withOperands b w h := by
  cases hw : r.hostWrote <;> simp only [State.complete, hw] <;> rfl

/-- The engine's step reads no operand register. -/
theorem engineStep_withOperands (b : Word) (w h : Half) (r : Running) (a : BusAnswer) (out : Nat → Nat → Rgb)
    (s : State) : engineStep r a out (s.withOperands b w h) =
      mapNext (State.withOperands b w h) (engineStep r a out s) := by
  have hparams : (s.withOperands b w h).params = s.params := rfl
  unfold engineStep
  rw [hparams]
  split_ifs
  · rfl
  · rfl
  · cases s.params.answer r.shadow a with
    | served => exact congrArg Host.Outcome.next (s.complete_withOperands b w h r out)
    | error => rfl
    | never => rfl

/-- Settles O31: on the engine's turn a command's event is the engine's step, or nothing. -/
theorem runningCommandIgnoresRewrittenRegisters : Obligations.RunningCommandIgnoresRewrittenRegisters := by
  intro i s a b w h hturn
  show exec i (s.withOperands b w h) = mapNext (State.withOperands b w h) (exec i s)
  have hturn' : (s.withOperands b w h).turn = .engine a := hturn
  have hengine : (s.withOperands b w h).engine = s.engine := rfl
  rw [exec_eq, exec_eq]
  simp only [commandEvent, hturn, hturn', hengine]
  rcases s.idle_or_running with hidle | ⟨r, hr⟩
  · simp only [hidle, mapNext]
  · simp only [hr]
    split_ifs
    · exact engineStep_withOperands b w h r a _ s
    · rfl

/-! ### A command's whole life (R106, R108) -/

/-- Two steps that go on are a run of two. -/
theorem run_two {s u t : State} (h1 : step s = .next u) (h2 : step u = .next t) :
    Host.Core.run Sys2Proof.core 2 s = .next t := by
  simp only [Host.Core.run, Sys2Proof.core, h1, h2]

/-- A byte outside the region is no colour byte of it. -/
theorem Shadow.isColour_of_outside {sh : Shadow} {a : Nat} (h : a < sh.start ∨ sh.stop ≤ a) :
    sh.isColour a = false := by
  rw [← Bool.not_eq_true, sh.isColour_iff]
  omega

/-- `s` right after the accept of command `i`, on the engine's turn, its transaction taken. -/
def State.startedWith (s : State) (i : Instr) (rest : List HostOp) : State :=
  { s with
    done := false, err := false, errcode := 0#4, engine := .busy (s.launched (encode i) (tablesOf i)),
    hostOps := rest, turn := .engine .served }

/-- With nothing scheduled the turn alternates. -/
theorem State.endTurn_of_unscheduled {s : State} (h : s.later = []) :
    s.endTurn = { s with turn := s.turn.following } := by
  simp only [State.endTurn, h]

/-- The CMD write of a command that is accepted, with nothing scheduled, hands the turn to the engine. -/
theorem step_of_accepted {i : Instr} {s : State} {rest : List HostOp}
    (hdo : Rule.hostDoes s (.regWrite 0x0C#6 4 (encode i)) rest) (hlater : s.later = []) (hidle : s.engine = .idle)
    (hcheck : issueCheck s.params (encode i) s.base s.width s.height = none)
    (hallowed : s.params.launchAllowed (s.shadowOf (encode i)).start (s.shadowOf (encode i)).stop = true) :
    step s = .next (s.startedWith i rest) := by
  rw [step_of_commandWrite hdo (decode_encode i), exec_of_hostTurn (s := { s with hostOps := rest }) hdo.1,
    issue_of_passedChecks (s := { s with hostOps := rest }) hidle hcheck hallowed, mapNext,
    State.endTurn_of_unscheduled (s := State.accept { s with hostOps := rest } _ _) hlater]
  simp only [State.accept_turn, hdo.1]
  rfl

/-- A command just accepted on an admitted region may complete. -/
theorem mayComplete_startedWith {i : Instr} {s : State}
    (hcheck : issueCheck s.params (encode i) s.base s.width s.height = none) (hwf : s.mem.wf = true)
    (hadm : s.params.admits (s.shadowOf (encode i)).start (s.shadowOf (encode i)).stop = true) (rest : List HostOp) :
    Rule.MayComplete (opOf i) (s.startedWith i rest) (s.launched (encode i) (tablesOf i)) where
  turn := rfl
  busy := rfl
  op := s.shadowOf_encode_op i
  inSpace := regionEnd_le_of_passedChecks hcheck
  admitted := hadm
  answered := rfl
  noRace := rfl
  canonical := hwf
  snapshot := rfl

/-- The engine's served turn of a command that may complete is its completion. -/
theorem step_of_mayComplete {i : Instr} {s t : State} {r : Running} (h : Rule.MayComplete (opOf i) s r)
    (hexec : exec i s = .next t) : step s = .next t.endTurn := by
  rw [step_of_engineTurn h.turn h.busy (Shadow.command_eq_some_iff.2 h.op), hexec, mapNext]

/-- Settles O32: the first step accepts (`step_of_accepted`), the second completes
(`successfulCompletionWritesEveryOutput`). -/
theorem commandTransformsItsRegion : Obligations.CommandTransformsItsRegion := by
  intro i s rest hdo hlater hidle hcheck hwf lo n img hallowed hadm
  have hmay := mayComplete_startedWith hcheck hwf hadm rest
  obtain ⟨t, hexec, hframe, hothers, -, hout⟩ := successfulCompletionWritesEveryOutput i _ _ hmay
  have hrun := run_two (step_of_accepted hdo hlater hidle hcheck hallowed) (step_of_mayComplete hmay hexec)
  refine ⟨t.endTurn, hrun, ?frame, fun x y c hx hy => ?colour, fun x y hx hy => ?alpha, fun a ha => ?outside⟩
  case frame =>
    have hlater' : t.later = [] := by rw [hframe]; exact hlater
    rw [State.endTurn_of_unscheduled hlater', hframe]
    simp only [State.startedWith, Turn.following, ← hidle, ← hdo.1]
    rfl
  case colour =>
    rw [State.endTurn_mem]
    exact hout x y c hx hy
  case alpha =>
    rw [State.endTurn_mem]
    exact hothers _ ((s.shadowOf (encode i)).isColour_alphaAddr x y)
  case outside =>
    rw [State.endTurn_mem]
    exact hothers a (Shadow.isColour_of_outside ha)

end Sys2Proof.Machine

/-! # The host in a running region, and reset (R61, R231, R232) -/

namespace Sys2Proof.Machine

/-! ### Host reads and writes of memory -/

theorem State.hostReadsMem_of_colour {s : State} {r : Running} {a : Nat} (hr : s.engine = .busy r)
    (ha : r.shadow.isColour a = true) :
    s.hostReadsMem a = { s with memReadData := Config.freeByte s.freeDraws, freeDraws := s.freeDraws + 1 } := by
  simp only [State.hostReadsMem, hr, ha, if_true]

theorem State.hostReadsMem_of_current {s : State} {a : Nat}
    (h : ∀ r, s.engine = .busy r → r.shadow.isColour a = false) :
    s.hostReadsMem a = { s with memReadData := s.mem.read a } := by
  rcases s.idle_or_running with hidle | ⟨r, hr⟩
  · simp only [State.hostReadsMem, hidle]
  · simp only [State.hostReadsMem, hr, h r hr, Bool.false_eq_true, if_false]

theorem step_of_memRead {s : State} {p : Word} {rest : List HostOp} (hdo : Rule.hostDoes s (.memRead p) rest)
    (hp : s.params.isMemory p.toNat = true) :
    step s = .next (State.hostReadsMem { s with hostOps := rest } p.toNat).endTurn := by
  simp only [step_of_hostDoes hdo, hostOp, hp, if_true, mapNext]

theorem step_of_memWrite {s : State} {p : Word} {v : Byte} {rest : List HostOp}
    (hdo : Rule.hostDoes s (.memWrite p v) rest) (hp : s.params.isMemory p.toNat = true) :
    step s = .next (State.hostWritesMem { s with hostOps := rest } p.toNat v).endTurn := by
  simp only [step_of_hostDoes hdo, hostOp, hp, if_true, mapNext]

/-- Settles O36: the two cases of a host read; the launch contract keeps a running region within memory. -/
theorem hostReadOfARunningRegionIsFree : Obligations.HostReadOfARunningRegionIsFree := by
  refine ⟨fun s p rest hdo hp => ⟨fun r hr hcolour => ?_, fun hnot => ?_⟩, fun s r a hinv hr ha => ?_⟩
  · rw [Rule.answers, step_of_memRead hdo hp, State.hostReadsMem_of_colour (s := { s with hostOps := rest }) hr hcolour]
  · rw [Rule.answers, step_of_memRead hdo hp, State.hostReadsMem_of_current (s := { s with hostOps := rest }) hnot]
  · obtain ⟨hlo, hhi⟩ := (r.shadow.covers_iff a).1 ha
    exact Params.isMemory_of_launchAllowed (hinv.runningGood r hr).launched hlo hhi

/-- With a race noted, completion makes the colour bytes free values (R61 (b)). -/
theorem coloursFree_complete {s : State} {r : Running} (hw : r.hostWrote = true) (hwf : s.mem.wf = true)
    (out : Nat → Nat → Rgb) : Rule.coloursFree r.shadow s (s.complete r out) := fun k hk c => by
  rw [s.complete_mem_raced r out hw, s.loseRegion_read_colour r.shadow k c hwf hk]

/-- Settles O37: the write stores one byte and notes the race, and a noted race loses the region at completion. -/
theorem hostWriteOfARunningRegionLosesIt : Obligations.HostWriteOfARunningRegionLosesIt := by
  refine ⟨fun s p v rest hdo hp hwf => ?write, fun i s r hturn hr hop hspace hadm hans hwf hw => ?complete⟩
  case write =>
    refine ⟨_, step_of_memWrite hdo hp, ?_, fun a ha => ?_, fun hidle => ?_, fun r hr => ?_⟩
    · simpa using Memory.read_write_same s.mem p.toNat v hwf
    · simpa using Memory.read_write_other s.mem v ha
    · simp [hidle, Engine.noteHostWrite]
    · simp [hr, Engine.noteHostWrite]
  case complete =>
    refine ⟨s.complete r (outputOf i r.image r.tables), ?_, s.complete_engine r _, s.complete_done r _,
      s.complete_err r _, s.complete_errcode r _, s.complete_read_other r _, coloursFree_complete hw hwf _⟩
    rw [exec_of_engineTurn hturn hr hop, engineStep_of_served hspace hadm hans]

/-! ### Reset while BUSY (R231, R232) -/

/-- A reset while BUSY makes the region's colour bytes free values. -/
theorem coloursFree_resetBlock {s : State} {r : Running} (hr : s.engine = .busy r) (hwf : s.mem.wf = true) :
    Rule.coloursFree r.shadow s s.resetBlock := fun k hk c => by
  rw [s.resetBlock_mem_busy r hr, s.loseRegion_read_colour r.shadow k c hwf hk]

/-- Settles O40: the pin's step is the reset of the block, after which the engine is IDLE. -/
theorem resetWhileBusyIsNoCompletion : Obligations.ResetWhileBusyIsNoCompletion := by
  intro s r hpin hr hwf
  obtain ⟨-, ⟨-, hothers⟩, -, hirq, -, -⟩ := reset_outcome s
  have hengine : s.resetBlock.endTurn.engine = .idle := by simp
  refine ⟨_, step_of_resetPin hpin, by simp, hirq, hengine, hothers r hr, ?_,
    fun a => step_of_idleEngineTurn rfl hengine⟩
  simpa only [Rule.coloursFree, State.endTurn_mem] using coloursFree_resetBlock hr hwf

/-- The reset reads neither the host's list nor the turn. -/
theorem resetBlock_withHostOpsAndTurn (s : State) (ops : List HostOp) (turn : Turn) :
    State.resetBlock { s with hostOps := ops, turn := turn } = { s.resetBlock with hostOps := ops, turn := turn } := by
  rcases s.idle_or_running with hidle | ⟨r, hr⟩
  · simp only [State.resetBlock, hidle, State.resetRegisters]
  · simp only [State.resetBlock, hr, State.resetRegisters, State.loseRegion]

/-- The turn passes on from `s` as from `s` with another list and turn, but for these two. -/
theorem endTurn_withHostOpsAndTurn (s : State) (ops : List HostOp) (turn : Turn) :
    s.endTurn = { State.endTurn { s with hostOps := ops, turn := turn } with
      hostOps := s.hostOps, turn := s.endTurn.turn } := by
  cases hlater : s.later <;> simp only [State.endTurn, hlater]

/-- Settles O41: both resets are the reset of the block, which reads neither the list nor the turn. -/
theorem softResetIsTheHardwareReset : Obligations.SoftResetIsTheHardwareReset := by
  intro s d rest hdo hd
  have hsoft := step_of_softReset hdo (by decide) (by decide) hd
  refine ⟨_, _, hsoft, step_of_resetPin rfl, ?_, State.ctrlWord_of_ie (by simp)⟩
  have hpin : State.resetBlock { s with turn := .resetPin } =
      { State.resetBlock { s with hostOps := rest } with hostOps := s.hostOps, turn := .resetPin } :=
    resetBlock_withHostOpsAndTurn { s with hostOps := rest } s.hostOps .resetPin
  rw [hpin]
  have hturn := endTurn_withHostOpsAndTurn (State.resetBlock { s with hostOps := rest }) s.hostOps .resetPin
  rwa [State.resetBlock_hostOps] at hturn

end Sys2Proof.Machine

/-! # The square root, the flat channel and SOBEL's neighbours (R9, R134, R160, R162) -/

namespace Sys2Proof.Machine

/-- Settles O43: the model's root is Mathlib's (`isqrt_eq_sqrt`), the greatest by its laws. -/
theorem isqrtIsTheGreatestRoot : Obligations.IsqrtIsTheGreatestRoot := by
  intro n
  rw [isqrt_eq_sqrt]
  exact ⟨Nat.sqrt_le n, fun _ hm => Nat.le_sqrt.2 hm⟩

/-! ### The flat channel (R134) -/

/-- Clamp-to-edge stays in an image that has a pixel (R120). -/
theorem clampCoord_lt {size : Nat} (h : 0 < size) (u : Int) : clampCoord u size < size := by
  unfold clampCoord clamp
  omega

/-- Settles O46: every sample is `v`, and the weights sum to the divisor. -/
theorem gaussKeepsAFlatChannel : Obligations.GaussKeepsAFlatChannel := by
  intro img c v hwidth hheight hflat x y _ _
  have hsample : ∀ u w : Int, img.sample u w c = v := fun u w =>
    hflat _ _ (clampCoord_lt hwidth u) (clampCoord_lt hheight w)
  have hacc : gaussAcc img x y c = gaussDivisor * v := by
    simp only [gaussAcc, hsample]
    rw [footprintSum_mul_const, footprintSum_gaussWeight]
  rw [gaussChannel, hacc, Nat.mul_div_cancel_left v (by decide)]

/-! ### The eight neighbours (R162) -/

/-- The kernels weigh the centre 0, so the gradients read the eight neighbours alone. -/
theorem gradients_of_sameNeighbours {img img' : Image} {x y : Nat}
    (h : ∀ i j, i < 3 → j < 3 → (i, j) ≠ (1, 1) →
      Rule.lumaAt img (x + i - 1) (y + j - 1) = Rule.lumaAt img' (x + i - 1) (y + j - 1)) :
    Rule.gx img x y = Rule.gx img' x y ∧ Rule.gy img x y = Rule.gy img' x y := by
  have hnw : Rule.lumaAt img (x - 1) (y - 1) = Rule.lumaAt img' (x - 1) (y - 1) :=
    h 0 0 (by decide) (by decide) (by decide)
  have hn : Rule.lumaAt img x (y - 1) = Rule.lumaAt img' x (y - 1) := h 1 0 (by decide) (by decide) (by decide)
  have hne : Rule.lumaAt img (x + 1) (y - 1) = Rule.lumaAt img' (x + 1) (y - 1) :=
    h 2 0 (by decide) (by decide) (by decide)
  have hw : Rule.lumaAt img (x - 1) y = Rule.lumaAt img' (x - 1) y := h 0 1 (by decide) (by decide) (by decide)
  have he : Rule.lumaAt img (x + 1) y = Rule.lumaAt img' (x + 1) y := h 2 1 (by decide) (by decide) (by decide)
  have hsw : Rule.lumaAt img (x - 1) (y + 1) = Rule.lumaAt img' (x - 1) (y + 1) :=
    h 0 2 (by decide) (by decide) (by decide)
  have hs : Rule.lumaAt img x (y + 1) = Rule.lumaAt img' x (y + 1) := h 1 2 (by decide) (by decide) (by decide)
  have hse : Rule.lumaAt img (x + 1) (y + 1) = Rule.lumaAt img' (x + 1) (y + 1) :=
    h 2 2 (by decide) (by decide) (by decide)
  exact ⟨by simp only [Rule.gx, hnw, hw, hsw, hne, he, hse], by simp only [Rule.gy, hnw, hn, hne, hsw, hs, hse]⟩

/-- On the border nothing is read; inside, the gradients decide. -/
theorem magnitude_of_sameNeighbours {img img' : Image} (hwidth : img.width = img'.width)
    (hheight : img.height = img'.height) {x y : Nat} (hx : x < img.width) (hy : y < img.height)
    (h : Rule.sameNeighbours img img' x y) : Rule.magnitude img x y = Rule.magnitude img' x y := by
  rw [Rule.magnitude, Rule.magnitude, ← hwidth, ← hheight]
  split_ifs with hborder
  · rfl
  · obtain ⟨hgx, hgy⟩ := gradients_of_sameNeighbours (h (by omega) (by omega) (by omega) (by omega))
    rw [hgx, hgy]

/-! ### The kernels' signs and axes (R160) -/

theorem kernelAt_negated (k : List (List Int)) (j i : Nat) : kernelAt (Rule.negated k) j i = -kernelAt k j i := by
  have hrow : (Rule.negated k).getD j [] = (k.getD j []).map fun v => -v :=
    List.getD_map k [] (fun row => row.map fun v => -v)
  rw [kernelAt, hrow]
  exact List.getD_map (k.getD j []) 0 (fun v => -v)

theorem sobelGradient_negated (k : List (List Int)) (img : Image) (t : Tables) (x y : Nat) :
    sobelGradient (Rule.negated k) img t x y = -sobelGradient k img t x y := by
  simp only [sobelGradient, footprintSumInt_eq_sum, kernelAt_negated, neg_mul, Finset.sum_neg_distrib]

/-- SY is minus the transpose of SX, so exchanging the indices of one gives the other negated. -/
theorem transposed_sobelY : Rule.transposed sobelY = Rule.negated sobelX := by decide

theorem transposed_sobelX : Rule.transposed sobelX = Rule.negated sobelY := by decide

/-- A kernel that is `k`, or `k` negated, has the gradient of `k` up to its sign. -/
theorem sobelGradient_mul_self {k a : List (List Int)} (h : a = k ∨ a = Rule.negated k) (img : Image) (t : Tables)
    (x y : Nat) :
    sobelGradient a img t x y * sobelGradient a img t x y = sobelGradient k img t x y * sobelGradient k img t x y := by
  rcases h with rfl | rfl
  · rfl
  · rw [sobelGradient_negated, neg_mul_neg]

/-- The sum of the squares sees neither the signs nor the order of the two kernels. -/
theorem gradientSquared_of_orientation {kx ky : List (List Int)} (h : Rule.sobelOrientation kx ky) (img : Image)
    (t : Tables) (x y : Nat) : gradientSquared kx ky img t x y = gradientSquared sobelX sobelY img t x y := by
  obtain ⟨a, b, ha, hb, horder⟩ := h
  rw [transposed_sobelY, or_self] at ha
  rw [transposed_sobelX, or_self] at hb
  have hasq := sobelGradient_mul_self ha img t x y
  have hbsq := sobelGradient_mul_self hb img t x y
  rcases horder with ⟨rfl, rfl⟩ | ⟨rfl, rfl⟩
  · rw [gradientSquared, hasq, hbsq, gradientSquared]
  · rw [gradientSquared, hasq, hbsq, gradientSquared, Int.add_comm]

theorem magnitudeOf_of_orientation {kx ky : List (List Int)} (h : Rule.sobelOrientation kx ky) (img : Image)
    (t : Tables) (x y : Nat) : magnitudeOf kx ky img t x y = sobelMagnitude img t x y := by
  rw [sobelMagnitude, magnitudeOf, magnitudeOf, gradientSquared_of_orientation h]

theorem kernelAt_sobelY {j i : Nat} (hj : j < 3) (hi : i < 3) : kernelAt sobelY j i = -kernelAt sobelX i j := by
  have htable : ∀ j < 3, ∀ i < 3, kernelAt sobelY j i = -kernelAt sobelX i j := by decide
  exact htable j hj i hi

/-- Settles O54: the rule's magnitude reads the neighbours only, and squares see no sign. -/
theorem sobelReadsTheEightNeighboursOnly : Obligations.SobelReadsTheEightNeighboursOnly := by
  refine ⟨fun img img' x y _ _ hwidth hheight hx hy hsame => ?_,
    fun img t x y kx ky h => ⟨gradientSquared_of_orientation h img t x y, magnitudeOf_of_orientation h img t x y⟩,
    fun img t x y => ⟨sobelGradient_negated sobelX img t x y, sobelGradient_negated sobelY img t x y⟩,
    fun _ _ => kernelAt_sobelY⟩
  rw [sobelMagnitude_eq_rule, sobelMagnitude_eq_rule, magnitude_of_sameNeighbours hwidth hheight hx hy hsame]

end Sys2Proof.Machine

/-! # HISTEQ writes the equalized image (R140 to R145)

The rule counts pixels by their coordinates, the model by their place in the snapshot; with W·H pixels both count
alike. -/

namespace Sys2Proof.Machine

/-! ### Counting pixels by coordinates -/

/-- A list counted by the places of its elements. -/
theorem countP_eq_card_places {α : Type} (l : List α) (d : α) (p : α → Bool) :
    l.countP p = ((Finset.range l.length).filter fun k => p (l.getD k d) = true).card := by
  have hlist : (List.range l.length).map (fun k => l.getD k d) = l :=
    List.ext_getElem (by simp) fun k _ hk => by simp [List.getElem?_eq_getElem hk]
  calc l.countP p
      = ((List.range l.length).map fun k => l.getD k d).countP p := by rw [hlist]
    _ = (List.range l.length).countP (fun k => p (l.getD k d)) := List.countP_map
    _ = ((List.range l.length).filter fun k => p (l.getD k d)).length := List.countP_eq_length_filter
    _ = _ := by simp [Finset.card, Finset.filter, Finset.range, Multiset.range]

/-- The places of the rows, one after the other, are the places below W·H (R50). -/
theorem card_coordinates (w h : Nat) (p : Nat → Prop) [DecidablePred p] :
    ((Finset.range w ×ˢ Finset.range h).filter fun q => p (q.2 * w + q.1)).card =
      ((Finset.range (w * h)).filter p).card := by
  refine Finset.card_nbij' (fun q => q.2 * w + q.1) (fun k => (k % w, k / w)) ?_ ?_ ?_ ?_
  · rintro ⟨x, y⟩ hq
    simp only [Finset.mem_coe, Finset.mem_filter, Finset.mem_product, Finset.mem_range] at hq ⊢
    obtain ⟨⟨hx, hy⟩, hp⟩ := hq
    exact ⟨by nlinarith, hp⟩
  · intro k hk
    simp only [Finset.mem_coe, Finset.mem_filter, Finset.mem_product, Finset.mem_range] at hk ⊢
    obtain ⟨hk, hp⟩ := hk
    have hw : 0 < w := Nat.pos_of_mul_pos_right (Nat.zero_lt_of_lt hk)
    refine ⟨⟨Nat.mod_lt k hw, Nat.div_lt_of_lt_mul hk⟩, ?_⟩
    rwa [Nat.div_add_mod']
  · rintro ⟨x, y⟩ hq
    simp only [Finset.mem_coe, Finset.mem_filter, Finset.mem_product, Finset.mem_range] at hq
    obtain ⟨⟨hx, -⟩, -⟩ := hq
    have hw : 0 < w := Nat.zero_lt_of_lt hx
    simp only [Nat.mul_comm y w, Nat.mul_add_mod, Nat.mod_eq_of_lt hx, Nat.mul_add_div hw,
      Nat.div_eq_of_lt hx, Nat.add_zero]
  · intro k _
    exact Nat.div_add_mod' k w

/-! ### The rule's tables are the model's -/

section Tables

variable {img : Image}

/-- The rule's bins (R140). -/
theorem ruleHist_eq_count (hlength : img.pixels.length = img.pixelCount) (i : Nat) :
    Rule.hist img i = img.lumas.count i := by
  rw [count_lumas, countP_eq_card_places img.pixels Pixel.zero, hlength]
  simp only [beq_iff_eq]
  exact card_coordinates img.width img.height fun k => (img.pixels.getD k Pixel.zero).luma = i

theorem ruleHist_eq_histogram (hlength : img.pixels.length = img.pixelCount) {i : Nat} (hi : i < 256) :
    Rule.hist img i = (histogram img).getD i 0 := by
  rw [ruleHist_eq_count hlength, histogram_getD img hi]

/-- The rule's running sum (R141). -/
theorem ruleCdf_eq_cumulative (hlength : img.pixels.length = img.pixelCount) {i : Nat} (hi : i < 256) :
    Rule.cdf img i = (cumulative img).getD i 0 := by
  induction i with
  | zero => rw [Rule.cdf, Finset.sum_range_one, cumulative_getD_zero, ruleHist_eq_histogram hlength hi]
  | succ i ih =>
    rw [Rule.cdf, Finset.sum_range_succ, ← Rule.cdf, ih (Nat.lt_of_succ_lt hi), cumulative_getD_succ img hi,
      ruleHist_eq_histogram hlength hi]

/-- The rule's least luma present is the model's (R142): a luma that occurs is at most 255. -/
theorem isLeastLuma_of_rule (hlength : img.pixels.length = img.pixelCount) {i0 : Nat} (h : Rule.leastLuma img i0) :
    IsLeastLuma img i0 := by
  obtain ⟨hpresent, habsent⟩ := h
  have hmem : i0 ∈ img.lumas := List.count_pos_iff.1 (ruleHist_eq_count hlength i0 ▸ hpresent)
  have hlt : i0 < 256 := Nat.lt_succ_of_le (Image.luma_le_of_mem hmem)
  exact ⟨hlt, ruleHist_eq_histogram hlength hlt ▸ hpresent,
    fun j hj => ruleHist_eq_histogram hlength (hj.trans hlt) ▸ habsent j hj⟩

/-- The rule's table is the model's at every luma (R143, R144). -/
theorem lookupTable_eq_rule (hlength : img.pixels.length = img.pixelCount) {i0 : Nat} (h : Rule.leastLuma img i0)
    {l : Nat} (hl : l < 256) : (lookupTable img).getD l 0 = Rule.equalized img i0 l := by
  have hleast : IsLeastLuma img i0 := isLeastLuma_of_rule hlength h
  have hmin : Rule.hist img i0 = cdfMinimum img :=
    (ruleHist_eq_histogram hlength hleast.lt).trans hleast.cdfMinimum_eq_histogram.symm
  have hrange : img.width * img.height - cdfMinimum img = cdfRange img := rfl
  rw [Rule.equalized, hmin, hrange, ruleCdf_eq_cumulative hlength hl]
  split_ifs with hflat
  · exact lookupTable_of_flat hflat hl
  · exact lookupTable_of_range_pos hlength (Nat.pos_of_ne_zero hflat) hl

/-- The byte HISTEQ writes holds the number of the rule (R123, R145). -/
theorem histeqPixel_channel_toNat (hlength : img.pixels.length = img.pixelCount) {i0 : Nat}
    (h : Rule.leastLuma img i0) (x y : Nat) (c : Colour) :
    ((histeqPixel img (histeqTables img) x y).channel c).toNat = Rule.equalized img i0 (Rule.lumaAt img x y) := by
  have hluma : (img.pixelAt x y).luma ≤ 255 := Pixel.luma_le _
  rw [histeqPixel, Rgb.gray_channel, histeqTables_lut_getD img hluma, toNat_byte_of_le (lutEntry_le img hluma _),
    ← lookupTable_getD img (Nat.lt_succ_of_le hluma), lookupTable_eq_rule hlength h (Nat.lt_succ_of_le hluma)]
  rfl

end Tables

/-- The image of a command that may complete has a pixel per place (R55). -/
theorem image_length_of_mayComplete {op : BitVec 2} {s : State} {r : Running} (h : Rule.MayComplete op s r) :
    r.image.pixels.length = r.image.pixelCount := by
  rw [Running.image_pixels, ← h.snapshot, State.snapshotOf, Memory.readPixels_length, Running.image_pixelCount]

/-- Settles O25: a successful completion writes the command's output at each address
(`successfulCompletionWritesEveryOutput`), and HISTEQ's output is the rule's. -/
theorem histeqWritesTheEqualizedImage : Obligations.HisteqWritesTheEqualizedImage := by
  intro s r h htables
  obtain ⟨t, hexec, hframe, hothers, halpha, hout⟩ := successfulCompletionWritesEveryOutput .histeq s r h
  refine ⟨t, hexec, hframe, hothers, halpha, fun x y c i0 hx hy hleast => ?_⟩
  rw [hout x y c hx hy, htables]
  exact histeqPixel_channel_toNat (image_length_of_mayComplete h) hleast x y c

end Sys2Proof.Machine
